-- ==== Sys2Proof/Word.lean ====
section
/-! DEFINITION. The word types and the finite name types of the spec (00_scope.md R9, R10, R11). -/

namespace Sys2Proof

/-- An 8-bit value: a direction mask, the receiver's registers, the serializer's working copy (R10). -/
abbrev Byte := BitVec 8

/-- `Bit ::= 0 | 1` (R11): `true` is 1, `false` is 0. -/
abbrev Bit := Bool

/-- A duty register's value, in microseconds (R23, R106): an unsigned number below `2^DUTY_W`. The width is a parameter of
the configuration (R7), so the bound is an invariant and not part of the type (assumption log 4). -/
abbrev Duty := Nat

/-- A command word at the default `SPEED_W = 32`: `2 * 32 + 8 = 72` bits (R55). -/
abbrev CW := BitVec 72

/-- `Channel ::= M1 | M2 | M3 | M4` (R11). -/
inductive Channel where
  | m1 | m2 | m3 | m4
deriving DecidableEq, Repr, Inhabited

/-- The channels in index order (R11), the order of a command's duty writes (R77, decision D11). -/
def Channel.all : List Channel := [.m1, .m2, .m3, .m4]

/-- `Half ::= A | B` (R11): the two direction bits of a channel. -/
inductive Half where
  | a | b
deriving DecidableEq, Repr, Inhabited

/-- `Pin ::= DATA | CLK | LATCH | EN_N` (R11). -/
inductive Pin where
  | data | clk | latch | enN
deriving DecidableEq, Repr, Inhabited

/-- What the power stage does to one motor, `drive(ch)` (60_exceptions.md R152). Which direction turns a wheel forward is
board wiring and not in the source. -/
inductive Drive where
  /-- The shield is disabled. -/
  | off
  /-- Neither half-bridge is selected. -/
  | coast
  /-- The A half-bridge at the given duration. -/
  | dirA (v : Duty)
  /-- The B half-bridge at the given duration. -/
  | dirB (v : Duty)
deriving DecidableEq, Repr, Inhabited

end Sys2Proof
end

