-- ==== Sys2Proof/Config.lean ====
section
/-! DEFINITION. The implementation parameters of 00_scope.md R7, and the free values of the spec (opaque constants
without a body: nothing in Lean can evaluate them). -/

namespace Sys2Proof

/-- The default of `SPEED_W` (R7, decision D6). -/
abbrev Config.defaultSpeedW : Nat := 32

/-- The default of `DUTY_W` (R7, decision D7). -/
abbrev Config.defaultDutyW : Nat := 16

/-- The default of `SPEED_MAX` (R7, decision D29). -/
abbrev Config.defaultSpeedMax : Int := 1000

/-- The default of `DUTY_OFFSET` (R7, decision D29). -/
abbrev Config.defaultDutyOffset : Int := 1000

/-- `BITPOS : Channel × Half → Fin 8` (R70): the mask position of each direction bit. The proof field says that the
eight positions are distinct, so every value of this type is a bijection, as R70 demands (assumption log 12). -/
structure BitPos where
  m1A : Fin 8
  m1B : Fin 8
  m2A : Fin 8
  m2B : Fin 8
  m3A : Fin 8
  m3B : Fin 8
  m4A : Fin 8
  m4B : Fin 8
  distinct : [m1A, m1B, m2A, m2B, m3A, m3B, m4A, m4B].Nodup
deriving DecidableEq, Repr

/-- `BITPOS(ch, h)` (R70). -/
def BitPos.get (p : BitPos) : Channel → Half → Fin 8
  | .m1, .a => p.m1A
  | .m1, .b => p.m1B
  | .m2, .a => p.m2A
  | .m2, .b => p.m2B
  | .m3, .a => p.m3A
  | .m3, .b => p.m3B
  | .m4, .a => p.m4A
  | .m4, .b => p.m4B

/-- The bit table read off a permutation of the eight positions, in the order M1 A, M1 B, ..., M4 B. -/
def BitPos.ofPerm (σ : Equiv.Perm (Fin 8)) : BitPos :=
  ⟨σ 0, σ 1, σ 2, σ 3, σ 4, σ 5, σ 6, σ 7, by simp [σ.injective.eq_iff]⟩

/-- The bit table with the given eight positions, or none where two of them are equal: R70 admits only bijections. -/
def BitPos.ofPositions? (m1A m1B m2A m2B m3A m3B m4A m4B : Fin 8) : Option BitPos :=
  if h : [m1A, m1B, m2A, m2B, m3A, m3B, m4A, m4B].Nodup then
    some ⟨m1A, m1B, m2A, m2B, m3A, m3B, m4A, m4B, h⟩
  else none

/-- `REF_BITPOS` (R72), for test vectors only; no source confirms it and State.reset does not assume it. -/
def BitPos.reference : BitPos := ⟨2, 3, 1, 4, 5, 7, 0, 6, by decide⟩

/-- The identity layout of 95_test_vectors.md section 2.2. -/
def BitPos.identity : BitPos := ⟨0, 1, 2, 3, 4, 5, 6, 7, by decide⟩

/-- The two values `LEFT_GROUP` may take (R75): `{M1, M2}` or `{M3, M4}`. -/
inductive LeftGroup where
  | m12 | m34
deriving DecidableEq, Repr

/-- Whether a channel is in `LEFT_GROUP` (R75). -/
def LeftGroup.contains : LeftGroup → Channel → Bool
  | .m12, .m1 => true
  | .m12, .m2 => true
  | .m12, .m3 => false
  | .m12, .m4 => false
  | .m34, .m1 => false
  | .m34, .m2 => false
  | .m34, .m3 => true
  | .m34, .m4 => true

/-- The two values of `STOP_TX` (R7, R84, decision D10). -/
inductive StopTx where
  | none | zero
deriving DecidableEq, Repr

/-- `RESET_LINES` (R7, R25): the levels of DATA, CLK and LATCH after reset. R168 demands that CLK be 0; the proof field
makes a configuration with CLK = 1 impossible to build (assumption log 12). -/
structure ResetLines where
  data : Bit
  clk : Bit
  latch : Bit
  clkLow : clk = false
deriving DecidableEq, Repr

/-- The reset levels, or none where CLK is 1: the configuration that R168 excludes and 95_test_vectors.md section 2.3 says
a model must refuse. -/
def ResetLines.ofLevels? (data clk latch : Bit) : Option ResetLines :=
  if h : clk = false then some ⟨data, clk, latch, h⟩ else none

/-- The parameters of R7, fixed for a machine (R37). State holds one, and no step changes it
(assumption log 2). -/
structure Config where
  bitpos : BitPos
  leftGroup : LeftGroup
  stopTx : StopTx
  /-- `SPEED_W`, the width of a speed operand: a command word has `2 * SPEED_W + 8` bits (R55, decision D6). -/
  speedW : Nat
  /-- `DUTY_W`, the width of a duty register and of a PWM duration (R23, R33, decision D7). -/
  dutyW : Nat
  /-- `SPEED_MAX`, the upper clamp bound (R100, decision D29). -/
  speedMax : Int
  /-- `DUTY_OFFSET`, the integer added after clamping (R100, decision D29). -/
  dutyOffset : Int
  resetLines : ResetLines
  cfgValid : Bool
  /-- `T_SETTLE`, the least duration of a settle hold, in a unit the spec leaves open (R171). -/
  tSettle : Nat
  /-- `PWM_PERIOD`, in microseconds (R151, decision D26). -/
  pwmPeriod : Nat
deriving DecidableEq, Repr

/-- Every result of `clampAndMap` fits a duty register, as at the defaults (R102): no clamp constant is negative, and the
largest result, `SPEED_MAX + DUTY_OFFSET`, is below `2^DUTY_W`. -/
def Config.DutiesFit (c : Config) : Prop :=
  0 ≤ c.speedMax ∧ 0 ≤ c.dutyOffset ∧ (c.speedMax + c.dutyOffset).toNat < 2 ^ c.dutyW

/-- The clamp constants at the source's values, 1000 and 1000, with a duty register that holds every result (R101, R102:
`DUTY_W` of at least 11). The defaults are one such case. -/
def Config.SourceConstants (c : Config) : Prop := c.speedMax = 1000 ∧ c.dutyOffset = 1000 ∧ 11 ≤ c.dutyW

/-- FREE VALUE: the permutation behind BITPOS at State.reset. The source does not give the literal positions (R70,
91_not_in_source.md N1; assumption log 3). -/
opaque Config.wiring : Equiv.Perm (Fin 8)

/-- FREE VALUE: `T_SETTLE` at State.reset (R171; assumption log 14). -/
opaque Config.settleTime : Nat

/-- FREE VALUE: `PWM_PERIOD` at State.reset (R151; assumption log 14). -/
opaque Config.pwmFrame : Nat

/-- FREE VALUE: the receiver's `SR` at power-up, any 8-bit value (R32; assumption log 5). -/
opaque Config.powerUpSr : Byte

/-- FREE VALUE: the receiver's `OUT` at power-up, any 8-bit value, independent of SR (R32; assumption log 5). -/
opaque Config.powerUpOut : Byte

/-- FREE VALUE: the level of a line after the n-th F_CONFIG (R144; assumption log 7). -/
opaque Config.freeLine : Nat → Pin → Bit

/-- FREE VALUE: a duty register after the n-th F_CONFIG, of which its `DUTY_W` bits are used (R144; assumption log 7). -/
opaque Config.freeDuty : Nat → Channel → Duty

/-- FREE VALUE: what a duty register of the given width holds for a result of `clampAndMap` that the width cannot hold; its
`DUTY_W` bits are used (R23, R102; assumption log 23). -/
opaque Config.unheldDuty : Nat → Int → Duty

/-- FREE VALUE: a PWM duration after the n-th F_CONFIG, of which its `DUTY_W` bits are used (R144; assumption log 7). -/
opaque Config.freeDur : Nat → Channel → Duty

/-- FREE VALUE: a PWM channel's running flag after the n-th F_CONFIG (R144; assumption log 7). -/
opaque Config.freeRun : Nat → Channel → Bool

/-- FREE VALUE: `drive(ch)` where both direction bits of the channel are set, after the n-th event (R152; assumption log 8). -/
opaque Config.freeDrive : Nat → Channel → Drive

/-- The spec's defaults (R7) around a given bit table, with free T_SETTLE and PWM_PERIOD. -/
def Config.withBitPos (p : BitPos) : Config where
  bitpos := p
  leftGroup := .m34
  stopTx := .none
  speedW := Config.defaultSpeedW
  dutyW := Config.defaultDutyW
  speedMax := Config.defaultSpeedMax
  dutyOffset := Config.defaultDutyOffset
  resetLines := ⟨false, false, false, rfl⟩
  cfgValid := true
  tSettle := Config.settleTime
  pwmPeriod := Config.pwmFrame

/-- The configuration of State.reset: the spec's defaults (R7), and free values where R7 says OPEN without a default
(assumption logs 3 and 14). -/
def Config.atReset : Config := Config.withBitPos (BitPos.ofPerm Config.wiring)

end Sys2Proof
end

