-- ==== Sys2Proof/Syntax.lean ====
section
/-! DEFINITION. The commands: one constructor per row of spec/opcode_table.json (30_encoding.md R57). -/

namespace Sys2Proof

/-- A decoded command word (R57, R58). Speed operands are mathematical integers (R10, R56); `f` is a Bit, 1 meaning on. -/
inductive Instr where
  /-- `SETFWD a, b`: SetForward(leftSpeed, rightSpeed) (R80). -/
  | setfwd (a b : Int)
  /-- `SETBWD a, b`: SetBackward(leftSpeed, rightSpeed) (R81). -/
  | setbwd (a b : Int)
  /-- `SETTL a`: SetTurnLeft(speed) (R82). -/
  | settl (a : Int)
  /-- `SETTR a`: SetTurnRight(speed) (R83). -/
  | settr (a : Int)
  /-- `STOP`: MotorStop() (R84). -/
  | stop
  /-- `SHIELD f`: SetMotorShieldOn(bool) (R85). -/
  | shield (f : Bit)
deriving DecidableEq, Repr

end Sys2Proof
end

