-- ==== Sys2Proof/WellFormed.lean ====
section
/-! DEFINITION. Which terms of Instr a command word of a given speed width can carry (30_encoding.md R56, R62). -/

namespace Sys2Proof

/-- A speed operand fits a `w`-bit two's complement field: it lies in `[-2^(w-1), 2^(w-1)-1]` (R56). -/
def inSpeedRange (w : Nat) (a : Int) : Bool :=
  decide (-(2 ^ (w - 1) : Int) ≤ a) && decide (a < (2 ^ (w - 1) : Int))

/-- Every operand of the command fits its field, for speed width `w` (R56, R62). -/
def Instr.wellFormedAt (w : Nat) : Instr → Bool
  | .setfwd a b => inSpeedRange w a && inSpeedRange w b
  | .setbwd a b => inSpeedRange w a && inSpeedRange w b
  | .settl a => inSpeedRange w a
  | .settr a => inSpeedRange w a
  | .stop => true
  | .shield _ => true

/-- Well-formedness at the default `SPEED_W` (R56, R62). -/
def Instr.wellFormed (i : Instr) : Bool := i.wellFormedAt Config.defaultSpeedW

end Sys2Proof
end

