-- ==== Sys2Proof/Decode.lean ====
section
/-! DEFINITION. Decoding a command word, total, rejecting by name, and encoding it back (30_encoding.md R55 to R66). Written
for every speed width `w`; the command port uses its configuration's `SPEED_W` (R7). -/

namespace Sys2Proof

/-- Why a command word is Illegal (R59): a reserved opcode, or reserved bits that are not zero. -/
inductive Illegal where
  /-- `RSV ≠ 0b000` (R59); tested first, as R58 does. -/
  | reservedBits
  /-- `OP` is 0x0 or 0x7 to 0xF (R57, R59). -/
  | reservedOpcode
deriving DecidableEq, Repr

/-- `B = CW[W-1:0]` (R55). -/
def fieldB (w : Nat) (cw : BitVec (2 * w + 8)) : BitVec w := cw.extractLsb' 0 w

/-- `A = CW[2W-1:W]` (R55). -/
def fieldA (w : Nat) (cw : BitVec (2 * w + 8)) : BitVec w := cw.extractLsb' w w

/-- `F = CW[2W]` (R55). -/
def fieldF (w : Nat) (cw : BitVec (2 * w + 8)) : Bit := cw.getLsbD (2 * w)

/-- `RSV = CW[2W+3:2W+1]` (R55). -/
def fieldRsv (w : Nat) (cw : BitVec (2 * w + 8)) : BitVec 3 := cw.extractLsb' (2 * w + 1) 3

/-- `OP = CW[2W+7:2W+4]` (R55). -/
def fieldOp (w : Nat) (cw : BitVec (2 * w + 8)) : BitVec 4 := cw.extractLsb' (2 * w + 4) 4

/-- The decoder of R58 for speed width `w`. A speed operand is the field's two's complement value (R56); a field the
command does not use is not read (R60). -/
def decodeAt (w : Nat) (cw : BitVec (2 * w + 8)) : Except Illegal Instr :=
  if fieldRsv w cw ≠ 0#3 then .error .reservedBits
  else
    match (fieldOp w cw).toNat with
    | 1 => .ok (.setfwd (fieldA w cw).toInt (fieldB w cw).toInt)
    | 2 => .ok (.setbwd (fieldA w cw).toInt (fieldB w cw).toInt)
    | 3 => .ok (.settl (fieldA w cw).toInt)
    | 4 => .ok (.settr (fieldA w cw).toInt)
    | 5 => .ok .stop
    | 6 => .ok (.shield (fieldF w cw))
    | _ => .error .reservedOpcode

/-- The decoder at the default `SPEED_W = 32`, where a command word has 72 bits (R55, R58). -/
def decode (cw : CW) : Except Illegal Instr := decodeAt Config.defaultSpeedW cw

/-- The decoder on the levels of the command port's wires (R55, R58): wire k is bit k of `cw`, and a port of width `w` has
`2 * w + 8` wires, so no higher bit is read (assumption log 4). -/
def decodeWord (w cw : Nat) : Except Illegal Instr := decodeAt w (BitVec.ofNat (2 * w + 8) cw)

/-- The opcode of each command (R57). -/
def Instr.opcode : Instr → BitVec 4
  | .setfwd _ _ => 1#4
  | .setbwd _ _ => 2#4
  | .settl _ => 3#4
  | .settr _ => 4#4
  | .stop => 5#4
  | .shield _ => 6#4

/-- A word of the given fields, `{OP, RSV, F, A, B}` (R55). -/
def packFields (w : Nat) (op : BitVec 4) (rsv : BitVec 3) (f : Bit) (a b : BitVec w) : BitVec (2 * w + 8) :=
  (op ++ rsv ++ BitVec.ofBool f ++ a ++ b).cast (by omega)

/-- `CW = {OP, 0b000, F, A, B}` (R63). -/
def packWord (w : Nat) (op : BitVec 4) (f : Bit) (a b : BitVec w) : BitVec (2 * w + 8) := packFields w op 0#3 f a b

/-- The assembler's encoding for speed width `w` (R63): each ignored field is 0, `A` and `B` are the two's complement
patterns of the operands. -/
def encodeAt (w : Nat) (i : Instr) : BitVec (2 * w + 8) :=
  match i with
  | .setfwd a b => packWord w i.opcode false (BitVec.ofInt w a) (BitVec.ofInt w b)
  | .setbwd a b => packWord w i.opcode false (BitVec.ofInt w a) (BitVec.ofInt w b)
  | .settl a => packWord w i.opcode false (BitVec.ofInt w a) 0#w
  | .settr a => packWord w i.opcode false (BitVec.ofInt w a) 0#w
  | .stop => packWord w i.opcode false 0#w 0#w
  | .shield f => packWord w i.opcode f 0#w 0#w

/-- The command word of a command at the default `SPEED_W = 32` (R63). -/
def encode (i : Instr) : CW := encodeAt Config.defaultSpeedW i

/-- The bits of a command word that its command reads or that must be zero: everything but the ignored fields of R60. -/
def Instr.usedMaskAt (w : Nat) : Instr → BitVec (2 * w + 8)
  | .setfwd _ _ => packFields w 0xF#4 0b111#3 false (BitVec.allOnes w) (BitVec.allOnes w)
  | .setbwd _ _ => packFields w 0xF#4 0b111#3 false (BitVec.allOnes w) (BitVec.allOnes w)
  | .settl _ => packFields w 0xF#4 0b111#3 false (BitVec.allOnes w) 0#w
  | .settr _ => packFields w 0xF#4 0b111#3 false (BitVec.allOnes w) 0#w
  | .stop => packFields w 0xF#4 0b111#3 false 0#w 0#w
  | .shield _ => packFields w 0xF#4 0b111#3 true 0#w 0#w

/-- The opcode-table mask, `CW[71:65]` (R66). -/
def matchMask : CW := 0xFE0000000000000000#72

/-- The opcode-table match of a command, `OP << 68` (R66). -/
def Instr.matchWord (i : Instr) : CW := i.opcode.setWidth 72 <<< 68

/-- The word whose bits are the low `nbits` bits of `w`, every higher bit 0. A command word is presented in parallel and has
no byte order (R41, R55), so bit k of `w` is `CW[k]`. -/
def tableWord (nbits w : Nat) : Nat := w % 2 ^ nbits

/-- The instruction the decoder reads from an opcode-table word, at the table's width (R66), none where it refuses. -/
def decodeTableWord (nbits w : Nat) : Option Instr :=
  match decodeWord Config.defaultSpeedW (tableWord nbits w) with
  | .ok i => some i
  | .error _ => none

end Sys2Proof
end

