-- ==== Sys2Proof/Machine/DutyMapper.lean ====
section
/-! DEFINITION. The PWM duty mapper (41_pwm_duty_mapper.md), for every configuration. -/

namespace Sys2Proof.Machine

/-- `clamp(s) = min(max(s, 0), SPEED_MAX)` (R100). -/
def clamp (c : Config) (s : Int) : Int := min (max s 0) c.speedMax

/-- `clampAndMap(s) = clamp(s) + DUTY_OFFSET` (R100): exact integer arithmetic. -/
def clampAndMap (c : Config) (s : Int) : Int := clamp c s + c.dutyOffset

/-- What a duty register of `w` bits holds once `v` is written to it: `v` exactly where the register can hold it, as R102
says of the default constants, and a free `w`-bit value where it cannot (assumption log 23). -/
def holdDuty (w : Nat) (v : Int) : Duty :=
  if 0 ≤ v ∧ v.toNat < 2 ^ w then v.toNat else Config.unheldDuty w v % 2 ^ w

/-- The duty register's value for a speed: `clampAndMap` in `DUTY_W` bits (R23, R102). -/
def dutyOf (c : Config) (s : Int) : Duty := holdDuty c.dutyW (clampAndMap c s)

/-- The W-bit realization of the duty mapper (R104): the sign bit, an unsigned compare of the non-negative value, an 11-bit
add, and an extension to `DUTY_W` bits, which is the sum itself for `DUTY_W` of at least 11. DESIGN CHOICE (assumption log 24):
R104 does not say what `zext_DUTY_W` gives for fewer than 11 bits, nor what constants of more than 11 bits give. The sum is
then held as any duty is, exactly where the register can hold it and as the free value of log 23 where it cannot; of each
constant the adder takes 11 bits. -/
def clampAndMapHw (c : Config) (w : Nat) (s : BitVec w) : Duty :=
  let neg := s.msb
  let big := !neg && decide (c.speedMax ≤ s.toNat)
  let v : BitVec 11 := if neg then 0#11 else if big then BitVec.ofInt 11 c.speedMax else s.extractLsb' 0 11
  holdDuty c.dutyW (v + BitVec.ofInt 11 c.dutyOffset).toNat

end Sys2Proof.Machine
end

