-- ==== Sys2Proof/Machine/State.lean ====
section
/-! DEFINITION. The machine's state as plain data (10_state.md), the outcomes' reasons, and the state after reset. -/

namespace Sys2Proof.Machine

/-- The five logical states (R26). The codes 5, 6 and 7 never occur, so they have no constructor. -/
inductive Mode where
  | stopped | forward | backward | turningLeft | turningRight
deriving DecidableEq, Repr

/-- The fault codes (R27, R140). -/
inductive FaultCode where
  /-- NONE: no fault. -/
  | noFault
  /-- F_CONFIG: a hardware handle was invalid at construction; raised by reset (R144). -/
  | fConfig
  /-- F_ILLEGAL: an accepted word decodes to Illegal (R141). -/
  | fIllegal
  /-- F_BUSY: a word was presented while BUSY = 1 (R142). -/
  | fBusy
deriving DecidableEq, Repr

/-- One write the block makes to its environment (R12, R42 to R45). -/
inductive Event where
  /-- `PWM_SET(ch, v)` (R42). -/
  | pwmSet (ch : Channel) (v : Duty)
  /-- `PWM_START(ch)` (R44). -/
  | pwmStart (ch : Channel)
  /-- `PIN(p, b)` (R43). -/
  | pin (p : Pin) (b : Bit)
  /-- `SETTLE` (R45). -/
  | settle
deriving DecidableEq, Repr

/-- One value of a kind for each of the four channels. -/
structure PerChannel (α : Type) where
  m1 : α
  m2 : α
  m3 : α
  m4 : α
deriving DecidableEq, Repr

/-- The four line levels, `LINE[p]` (R25). -/
structure Lines where
  data : Bit
  clk : Bit
  latch : Bit
  enN : Bit
deriving DecidableEq, Repr

/-- The block's input pins during one step, as CALLER drives them (R28, R55, R64, R157). `waits` says that CALLER makes no
other move until the command has completed (R157), so that the step may take the whole command (the macro model of R46;
assumption log 1). `cw` gives the levels of the command word's `2 * SPEED_W + 8` wires, wire k as bit k (assumption log 4). -/
structure PortInput where
  rst : Bit
  valid : Bit
  cw : Nat
  waits : Bool
deriving DecidableEq, Repr

/-- The machine: the block, the devices its events write, and CALLER's remaining moves. INVENTORY.md lists each field with
its rule and reset value. -/
structure State where
  /-- The configuration: fixed, written by nothing (R37; assumption log 2). -/
  cfg : Config
  /-- `DUTY[ch]` (R23). -/
  duty : PerChannel Duty
  /-- `SHIELD_EN` (R24). -/
  shieldEn : Bit
  /-- `LINE[p]` (R25). -/
  line : Lines
  /-- `MODE` (R26). -/
  mode : Mode
  /-- `FAULT` (R27). -/
  fault : FaultCode
  /-- `BUSY` (R28). -/
  busy : Bit
  /-- `PEND`: the events of the current command still to be emitted (R29). -/
  pend : List Event
  /-- The MODE update to apply when `PEND` becomes empty, R46's `post` (assumption log 10). -/
  post : Option Mode
  /-- `WORK`: the serializer's working copy of the mask (R30; assumption log 6). -/
  work : Byte
  /-- `BITCNT`: the serializer's bit counter, 0 to 8 (R30; assumption log 6). -/
  bitcnt : BitVec 4
  /-- The receiver's shadow register `SR` (R32). -/
  sr : Byte
  /-- The receiver's output register `OUT` (R32). -/
  out : Byte
  /-- The PWM device's `DUR[ch]` (R33). -/
  dur : PerChannel Duty
  /-- The PWM device's `RUN[ch]` (R33). -/
  run : PerChannel Bool
  /-- CALLER's remaining moves, one a step; after the last, CALLER presents nothing (the model's own; log 1). -/
  port : List PortInput
  /-- Every event emitted so far, oldest first: R35's observation (the model's own; assumption log 9). -/
  trace : List Event
  /-- How many times unspecified outputs were drawn: the index of the next free values (the model's own; log 7). -/
  draws : Nat
deriving DecidableEq, Repr

/-- Why the model's machine could stop with a fault: it has no constructor. Every fault of the spec (R140) is a state the
spec describes, the halted state of R143, so it is a next state of this model and FAULT holds its code (assumption log 13).
Nothing raises this type, which is safe: no behaviour of the spec is cut off. -/
inductive Fault : Type
deriving DecidableEq, Repr

/-- Why an instruction could have no meaning. -/
inductive Refusal where
  /-- An arm of exec without a meaning yet. No arm raises it now: every row of the opcode table has its meaning. It would be
  safe: the run stops, and nothing can be proved of what comes after. -/
  | notModelled (mnemonic : String)
deriving DecidableEq, Repr

/-- The minimum duty, `clampAndMap(0)` (R108; 1000 at the defaults), as reset leaves it on every channel (R161). -/
def PerChannel.minimumDuty (c : Config) : PerChannel Duty := ⟨dutyOf c 0, dutyOf c 0, dutyOf c 0, dutyOf c 0⟩

/-- The machine after reset has completed under the configuration `c`, with `CFG_VALID` true (R34, R161): the receiver
powered up with contents `sr` and `out`, which reset does not touch (R163). WORK and BITCNT, the empty port, the empty
trace and `draws` are the model's choices (assumption logs 1, 6, 7, 9). -/
def State.resetWith (c : Config) (sr out : Byte) : State where
  cfg := c
  duty := PerChannel.minimumDuty c
  shieldEn := false
  line := ⟨c.resetLines.data, c.resetLines.clk, c.resetLines.latch, true⟩
  mode := .stopped
  fault := .noFault
  busy := false
  pend := []
  post := none
  work := 0#8
  bitcnt := 0#4
  sr := sr
  out := out
  dur := PerChannel.minimumDuty c
  run := ⟨true, true, true, true⟩
  port := []
  trace := []
  draws := 0

/-- The machine right after reset (R161), with the free values where the spec gives none (assumption logs 3, 5, 14). -/
def State.reset : State := State.resetWith Config.atReset Config.powerUpSr Config.powerUpOut

end Sys2Proof.Machine
end

