-- ==== Sys2Proof/Machine/Ops.lean ====
section
/-! DEFINITION. The named operations of the machine: the write events (20_memory.md R42 to R45) with the receiver's reaction
(42_shift_register_serializer.md R125), the micro-step and command execution (R46), taking a fault (R143) and reset (R160). -/

namespace Sys2Proof.Machine

/-- Every meaning and the step answer this. -/
abbrev Outcome := Host.Outcome State Fault Refusal

/-- The value of channel `ch`. -/
def PerChannel.get {α : Type} (p : PerChannel α) : Channel → α
  | .m1 => p.m1
  | .m2 => p.m2
  | .m3 => p.m3
  | .m4 => p.m4

/-- Channel `ch` set to `v`, the other three as they are (R109). -/
def PerChannel.set {α : Type} (p : PerChannel α) (ch : Channel) (v : α) : PerChannel α :=
  match ch with
  | .m1 => { p with m1 := v }
  | .m2 => { p with m2 := v }
  | .m3 => { p with m3 := v }
  | .m4 => { p with m4 := v }

/-- The value `f ch` on every channel. -/
def PerChannel.ofFn {α : Type} (f : Channel → α) : PerChannel α := ⟨f .m1, f .m2, f .m3, f .m4⟩

/-- `LINE[p]` (R25). -/
def Lines.get (l : Lines) : Pin → Bit
  | .data => l.data
  | .clk => l.clk
  | .latch => l.latch
  | .enN => l.enN

/-- The 3-bit code of MODE (R26). -/
def Mode.code : Mode → BitVec 3
  | .stopped => 0#3
  | .forward => 1#3
  | .backward => 2#3
  | .turningLeft => 3#3
  | .turningRight => 4#3

/-- The 2-bit code of FAULT (R27). -/
def FaultCode.code : FaultCode → BitVec 2
  | .noFault => 0#2
  | .fConfig => 1#2
  | .fIllegal => 2#2
  | .fBusy => 3#2

/-- The receiver's shift: `((SR << 1) & 0xFF) | LINE[DATA]` (R125). -/
def shiftIn (sr : Byte) (d : Bit) : Byte := (sr <<< 1) ||| (BitVec.ofBool d).setWidth 8

/-- The effect of `PIN(p, b)`: `LINE[p] <- b` (R43).
* A rising edge of CLK shifts the receiver (R47, R125); a falling edge ends a bit, and the serializer shifts WORK and counts
  it (R115; assumption log 6).
* A rising edge of LATCH copies SR to OUT (R47, R125).
* EN_N and SHIELD_EN change together, `SHIELD_EN = 1 - LINE[EN_N]` (R24). -/
def State.drivePin (s : State) (p : Pin) (b : Bit) : State :=
  match p with
  | .data => { s with line := { s.line with data := b } }
  | .clk =>
    { s with
      line := { s.line with clk := b }
      sr := if !s.line.clk && b then shiftIn s.sr s.line.data else s.sr
      work := if s.line.clk && !b then s.work <<< 1 else s.work
      bitcnt := if s.line.clk && !b then s.bitcnt + 1#4 else s.bitcnt }
  | .latch =>
    { s with
      line := { s.line with latch := b }
      out := if !s.line.latch && b then s.sr else s.out }
  | .enN => { s with line := { s.line with enN := b }, shieldEn := !b }

/-- The effect of one event on the block and the devices (R42 to R45), without the trace. -/
def State.effect (s : State) : Event → State
  | .pwmSet ch v => { s with duty := s.duty.set ch v, dur := s.dur.set ch v }
  | .pwmStart ch => { s with run := s.run.set ch true }
  | .pin p b => s.drivePin p b
  | .settle => s

/-- One event emitted: its effect, and its place at the end of the trace (R12, R50). -/
def State.apply (s : State) (e : Event) : State :=
  { s.effect e with trace := s.trace ++ [e] }

/-- A list of events emitted in order (R46, R50). -/
def State.applyAll (s : State) (es : List Event) : State := es.foldl State.apply s

/-- `s` with `es` pending. -/
def State.withPend (s : State) (es : List Event) : State := { s with pend := es }

/-- `s` with CALLER's remaining moves `ps`. -/
def State.withPort (s : State) (ps : List PortInput) : State := { s with port := ps }

/-- The end of a command or of the reset sequence: `apply post (MODE update); BUSY <- 0` (R46). -/
def State.finish (s : State) : State :=
  { s with mode := s.post.getD s.mode, post := none, busy := false }

/-- The micro-step of R46: emit and apply the head of PEND; with the last event, finish. With PEND empty it is not enabled
and changes nothing. -/
def State.microStep (s : State) : State :=
  match s.pend with
  | [] => s
  | [e] => ((s.withPend []).apply e).finish
  | e :: e' :: rest => (s.withPend (e' :: rest)).apply e

/-- `n` micro-steps. -/
def State.microSteps : Nat → State → State
  | 0, s => s
  | n + 1, s => State.microSteps n s.microStep

/-- Micro-steps until PEND is empty: the macro model's "applies the whole trace and `post`" (R46). -/
def State.drain (s : State) : State := State.microSteps s.pend.length s

/-- What `Exec` of R46 computes from a decoded command: its whole event trace, the mask its transfer loads into WORK (none
where it transmits nothing), and the MODE it leaves (none where MODE is unchanged). -/
structure Command where
  trace : List Event
  load : Option Byte
  post : Option Mode
deriving DecidableEq, Repr

/-- Acceptance of a command: `BUSY <- 1; PEND <- trace` (R46). A command that transmits loads WORK and clears BITCNT
(R115; assumption log 6). -/
def State.accept (s : State) (c : Command) : State :=
  { s with
    busy := true
    pend := c.trace
    post := c.post
    work := c.load.getD s.work
    bitcnt := match c.load with
      | some _ => 0#4
      | none => s.bitcnt }

/-- TAKING A FAULT, `raise F` (R143, R148): `FAULT <- F; PEND <- []; BUSY <- 0`. Nothing is saved, control goes nowhere,
the block is halted; everything else keeps its value. -/
def State.raise (s : State) (f : FaultCode) : State :=
  { s with fault := f, pend := [], post := none, busy := false }

/-- The block is halted (R143). -/
def State.halted (s : State) : Bool := s.fault != .noFault

/-- What the block does with a presented word before it looks at the word (R46, R86, R147): halted, the word has no effect
(R143); busy, it raises F_BUSY (R142); else `body`. -/
def State.gate (s : State) (body : Outcome) : Outcome :=
  if s.halted then .next s
  else if s.busy then .next (s.raise .fBusy)
  else body

/-- The meaning of a decoded command in the macro model (R13, R46): accepted, and its whole trace and `post` applied. -/
def State.perform (s : State) (c : Command) : Outcome := s.gate (.next (s.accept c).drain)

/-- The outputs that F_CONFIG leaves unspecified, drawn afresh (R144; assumption log 7); a duty register and a duration have
`DUTY_W` bits (R23, R33). No event is emitted. -/
def State.unconfigure (s : State) : State :=
  { s with
    line := ⟨Config.freeLine s.draws .data, Config.freeLine s.draws .clk, Config.freeLine s.draws .latch,
      Config.freeLine s.draws .enN⟩
    duty := PerChannel.ofFn fun ch => Config.freeDuty s.draws ch % 2 ^ s.cfg.dutyW
    dur := PerChannel.ofFn fun ch => Config.freeDur s.draws ch % 2 ^ s.cfg.dutyW
    run := PerChannel.ofFn (Config.freeRun s.draws)
    draws := s.draws + 1 }

/-- The event sequence of reset (R160): lines configured, the shield forced off, then each channel set to the minimum duty
`clampAndMap(0)` (R108) and started. -/
def resetTrace (c : Config) : List Event :=
  [.pin .data c.resetLines.data, .pin .clk c.resetLines.clk, .pin .latch c.resetLines.latch, .pin .enN true,
   .pwmSet .m1 (dutyOf c 0), .pwmStart .m1, .pwmSet .m2 (dutyOf c 0), .pwmStart .m2,
   .pwmSet .m3 (dutyOf c 0), .pwmStart .m3, .pwmSet .m4 (dutyOf c 0), .pwmStart .m4]

/-- `rst` (R160), the only RETURN FROM A FAULT (R149): the command in flight is abandoned (R162), FAULT is cleared, and the
reset sequence is pending with BUSY = 1; or F_CONFIG is raised where a handle is invalid (R144). -/
def State.startReset (s : State) : State :=
  if s.cfg.cfgValid then
    { s with fault := .noFault, busy := true, mode := .stopped, pend := resetTrace s.cfg, post := none }
  else (s.raise .fConfig).unconfigure

end Sys2Proof.Machine
end

