-- ==== Sys2Proof/Machine/Operands.lean ====
section
/-! DEFINITION. What the commands compute from their operands: the duty selection by channel group (R75, R76), over the duty
mapper of DutyMapper.lean, and the direction masks (R70 to R73). -/

namespace Sys2Proof.Machine

/-- Duty selection of `SETFWD` and `SETBWD` (R76): the left group takes the first speed, the right group the second. -/
def pairDuty (c : Config) (a b : Int) (ch : Channel) : Duty :=
  if c.leftGroup.contains ch then dutyOf c a else dutyOf c b

/-- Duty selection of `SETTL` and `SETTR` (R76): every channel takes the one speed. -/
def turnDuty (c : Config) (a : Int) (_ : Channel) : Duty := dutyOf c a

/-- Duty selection of `STOP` (R76): `clampAndMap(0)` on every channel. -/
def stopDuty (c : Config) (_ : Channel) : Duty := dutyOf c 0

/-- `bit(k)`: the 8-bit value with only bit k set (R10). -/
def bitAt (k : Fin 8) : Byte := 1#8 <<< k.val

/-- `Abit(ch) = bit(BITPOS(ch, A))` (R71). -/
def aBit (p : BitPos) (ch : Channel) : Byte := bitAt (p.get ch .a)

/-- `Bbit(ch) = bit(BITPOS(ch, B))` (R71). -/
def bBit (p : BitPos) (ch : Channel) : Byte := bitAt (p.get ch .b)

/-- `ALL_A` (R71). -/
def allA (p : BitPos) : Byte := aBit p .m1 ||| aBit p .m2 ||| aBit p .m3 ||| aBit p .m4

/-- `ALL_B` (R71). -/
def allB (p : BitPos) : Byte := bBit p .m1 ||| bBit p .m2 ||| bBit p .m3 ||| bBit p .m4

/-- `MASK_FWD = Bbit(M1) | Bbit(M2) | Abit(M3) | Abit(M4)` (R73). -/
def maskFwd (p : BitPos) : Byte := bBit p .m1 ||| bBit p .m2 ||| aBit p .m3 ||| aBit p .m4

/-- `MASK_BWD = Abit(M1) | Abit(M2) | Bbit(M3) | Bbit(M4)` (R73). -/
def maskBwd (p : BitPos) : Byte := aBit p .m1 ||| aBit p .m2 ||| bBit p .m3 ||| bBit p .m4

/-- `MASK_TL = ALL_B` (R73, 90_conflicts.md C1: four bits, not 0xFF). -/
def maskTl (p : BitPos) : Byte := allB p

/-- `MASK_TR = ALL_A` (R73). -/
def maskTr (p : BitPos) : Byte := allA p

/-- `popcount(m)`: the number of set bits (R10). -/
def popcount (m : Byte) : Nat := ((List.range 8).filter m.getLsbD).length

end Sys2Proof.Machine
end

