-- ==== Sys2Proof/Machine/Serializer.lean ====
section
/-! DEFINITION. The shift-register serializer's transfer sequence (42_shift_register_serializer.md R115). -/

namespace Sys2Proof.Machine

/-- The events of one bit (R115, step 2): DATA takes the top bit of the working copy, then one CLK pulse around the settle
hold. -/
def bitEvents (work : Byte) : List Event :=
  [.pin .data ((work &&& 0x80#8) != 0#8), .pin .clk true, .settle, .pin .clk false]

/-- The loop of R115 for the `n` bits still to send, from the working copy `work`. -/
def transmitBits : Nat → Byte → List Event
  | 0, _ => []
  | n + 1, work => bitEvents work ++ transmitBits n (work <<< 1)

/-- `Transmit(m)` (R115): LATCH low, eight bits from bit 7 down to bit 0, LATCH high. -/
def transmit (m : Byte) : List Event :=
  .pin .latch false :: (transmitBits 8 m ++ [.pin .latch true])

end Sys2Proof.Machine
end

