-- ==== Sys2Proof/Machine/Motion.lean ====
section
/-! DEFINITION. The four motion commands (40_command_encoder.md R77, R80 to R83). -/

namespace Sys2Proof.Machine

/-- The four duty writes of a command, in channel order (R77, R84, decision D11). -/
def dutyWrites (d : Channel → Duty) : List Event := Channel.all.map fun ch => .pwmSet ch (d ch)

/-- The common motion body (R77): duties, then the transfer of the mask, then the enable; `post` sets MODE. -/
def motion (mask : Byte) (d : Channel → Duty) (mode : Mode) : Command where
  trace := dutyWrites d ++ transmit mask ++ [.pin .enN false]
  load := some mask
  post := some mode

/-- `Exec` of `SETFWD a, b` (R80). -/
def setfwdCommand (c : Config) (a b : Int) : Command := motion (maskFwd c.bitpos) (pairDuty c a b) .forward

/-- `Exec` of `SETBWD a, b` (R81). -/
def setbwdCommand (c : Config) (a b : Int) : Command := motion (maskBwd c.bitpos) (pairDuty c a b) .backward

/-- `Exec` of `SETTL a` (R82). -/
def settlCommand (c : Config) (a : Int) : Command := motion (maskTl c.bitpos) (turnDuty c a) .turningLeft

/-- `Exec` of `SETTR a` (R83). -/
def settrCommand (c : Config) (a : Int) : Command := motion (maskTr c.bitpos) (turnDuty c a) .turningRight

/-- `SETFWD a, b` (R80). -/
def execSetfwd (a b : Int) (s : State) : Outcome := s.perform (setfwdCommand s.cfg a b)

/-- `SETBWD a, b` (R81). -/
def execSetbwd (a b : Int) (s : State) : Outcome := s.perform (setbwdCommand s.cfg a b)

/-- `SETTL a` (R82). -/
def execSettl (a : Int) (s : State) : Outcome := s.perform (settlCommand s.cfg a)

/-- `SETTR a` (R83). -/
def execSettr (a : Int) (s : State) : Outcome := s.perform (settrCommand s.cfg a)

end Sys2Proof.Machine
end

