-- ==== Sys2Proof/Machine/Control.lean ====
section
/-! DEFINITION. The commands STOP and SHIELD (40_command_encoder.md R84, R85), and the six commands' `Exec` of R46. -/

namespace Sys2Proof.Machine

/-- The serial traffic of `STOP`: none, or a transfer of the zero mask (R84; 90_conflicts.md C2). -/
def stopTransfer : StopTx → List Event
  | .none => []
  | .zero => transmit 0x00#8

/-- What `STOP` loads into WORK: nothing where it transmits nothing (R84, R115). -/
def stopLoad : StopTx → Option Byte
  | .none => none
  | .zero => some 0x00#8

/-- `Exec` of `STOP` (R84): duties to the minimum, the transfer where STOP_TX = ZERO, then the disable. -/
def stopCommand (c : Config) : Command where
  trace := dutyWrites (stopDuty c) ++ stopTransfer c.stopTx ++ [.pin .enN true]
  load := stopLoad c.stopTx
  post := some .stopped

/-- `Exec` of `SHIELD f` (R85): EN_N to `1 - f`; MODE is unchanged. -/
def shieldCommand (f : Bit) : Command where
  trace := [.pin .enN (!f)]
  load := none
  post := none

/-- `STOP` (R84). -/
def execStop (s : State) : Outcome := s.perform (stopCommand s.cfg)

/-- `SHIELD f` (R85). -/
def execShield (f : Bit) (s : State) : Outcome := s.perform (shieldCommand f)

/-- `Exec` of R46 on a decoded command: what acceptance puts into PEND, for the micro-step model. -/
def commandOf (c : Config) : Instr → Command
  | .setfwd a b => setfwdCommand c a b
  | .setbwd a b => setbwdCommand c a b
  | .settl a => settlCommand c a
  | .settr a => settrCommand c a
  | .stop => stopCommand c
  | .shield f => shieldCommand f

end Sys2Proof.Machine
end

