-- ==== Sys2Proof/Machine/Dispatch.lean ====
section
/-! DEFINITION. One arm per command: the meaning of a decoded command at a state. -/

namespace Sys2Proof.Machine

def exec (i : Instr) (s : State) : Host.Outcome State Fault Refusal :=
  match i with
  | .setfwd a b => Sys2Proof.Machine.execSetfwd a b s
  | .setbwd a b => Sys2Proof.Machine.execSetbwd a b s
  | .settl a => Sys2Proof.Machine.execSettl a s
  | .settr a => Sys2Proof.Machine.execSettr a s
  | .stop => Sys2Proof.Machine.execStop s
  | .shield f => Sys2Proof.Machine.execShield f s

end Sys2Proof.Machine
end

