-- ==== Sys2Proof/Machine/Flags.lean ====
section
/-! DEFINITION. The block has no flags and no condition codes (10_state.md R22). Its only status is what it drives to the
caller: `ready` and `fault[1:0]` (R27, R28). -/

namespace Sys2Proof.Machine

/-- The status output `ready = ~BUSY & (FAULT = NONE)` (R28). -/
def State.ready (s : State) : Bit := !s.busy && !s.halted

/-- The status output `fault[1:0]` (R27). -/
def State.faultOut (s : State) : BitVec 2 := s.fault.code

end Sys2Proof.Machine
end

