-- ==== Sys2Proof/Machine/Port.lean ====
section
/-! DEFINITION. What one step does with the command port's pins (20_memory.md R46, 60_exceptions.md R147): the step's parts,
which Step.lean calls. -/

namespace Sys2Proof.Machine

/-- CALLER presents `cw` and waits for completion, as R157 asks (the macro model of R46). -/
def PortInput.call (cw : Nat) : PortInput := ⟨false, true, cw, true⟩

/-- CALLER presents `cw` for one step and does not wait (the micro-step model of R46). -/
def PortInput.strobe (cw : Nat) : PortInput := ⟨false, true, cw, false⟩

/-- CALLER presents nothing in this step: `valid = 0`. -/
def PortInput.quiet : PortInput := ⟨false, false, 0, false⟩

/-- CALLER asserts `rst` (R64). -/
def PortInput.reset : PortInput := ⟨true, false, 0, false⟩

/-- A step with no word presented: a micro-step where PEND is not empty (R46), nothing where it is; halted, the block emits
no event (R143). -/
def State.advance (s : State) : State := if s.halted then s else s.microStep

/-- A presented word on a block that is neither halted nor busy (R46), decoded at the block's `SPEED_W` (R58): Illegal raises
F_ILLEGAL (R141); a decoded command runs, whole where CALLER waits, and only up to its acceptance where it does not. -/
def State.takeWord (s : State) (cw : Nat) (waits : Bool) : Outcome :=
  match decodeWord s.cfg.speedW cw with
  | .error _ => .next (s.raise .fIllegal)
  | .ok i => if waits then exec i s else .next (s.accept (commandOf s.cfg i))

/-- One step's reaction to the pins, in the priority of R147: `rst` first, then a presented word (halted, busy, Illegal, in
this order), then the command in flight. -/
def State.react (s : State) (p : PortInput) : Outcome :=
  if p.rst then .next s.startReset
  else if p.valid then s.gate (s.takeWord p.cw p.waits)
  else .next s.advance

end Sys2Proof.Machine
end

