-- ==== Sys2Proof/Machine/Step.lean ====
section
/-! DEFINITION. One step of the machine: the next pins of the port are taken, and the block reacts to them. -/

namespace Sys2Proof.Machine

/-- One step. CALLER's next move is taken from the port; with none left, CALLER presents nothing (R46, R157). -/
def step (s : State) : Host.Outcome State Fault Refusal :=
  match s.port with
  | [] => .next s.advance
  | p :: rest => (s.withPort rest).react p

/-- `s` with the command word of an opcode-table word as CALLER's next move, a move that waits for completion: the very next
step of a block that is ready runs it (assumption log 1). -/
def State.withFetchWord (s : State) (nbits w : Nat) : State :=
  s.withPort (PortInput.call (tableWord nbits w) :: s.port)

end Sys2Proof.Machine
end

