-- ==== Sys2Proof/Machine/Assembler.lean ====
section
/-! DEFINITION. The assembler of 30_encoding.md R62 and R63: one source line, as a list of characters, to a command. -/

namespace Sys2Proof.Machine

/-- Why the assembler refuses a line. -/
inductive AsmError where
  /-- The line holds no command: it is blank or only a comment. -/
  | noCommand
  /-- The first word is none of the six mnemonics. -/
  | unknownMnemonic
  /-- The mnemonic does not take this many operands. -/
  | operandCount
  /-- An operand is not an integer (for `SHIELD`, not 0, 1, ON or OFF). -/
  | badOperand
  /-- An integer operand does not fit the speed width (R62). -/
  | outOfRange
deriving DecidableEq, Repr

/-- A blank or a tab. -/
def isBlank (c : Char) : Bool := c == ' ' || c == '\t'

/-- A text without the blanks at its two ends. -/
def trimBlanks (l : List Char) : List Char :=
  (((l.dropWhile isBlank).reverse).dropWhile isBlank).reverse

/-- A line up to its comment, which `;` starts (R62). -/
def stripComment (l : List Char) : List Char := l.takeWhile (· != ';')

/-- The parts of a text between its commas. -/
def splitCommas : List Char → List (List Char)
  | [] => [[]]
  | c :: cs =>
    if c == ',' then [] :: splitCommas cs
    else
      match splitCommas cs with
      | [] => [[c]]
      | p :: ps => (c :: p) :: ps

/-- A decimal digit's value. -/
def decDigit (c : Char) : Option Nat :=
  if '0' ≤ c ∧ c ≤ '9' then some (c.toNat - '0'.toNat) else none

/-- A hexadecimal digit's value. -/
def hexDigit (c : Char) : Option Nat :=
  if '0' ≤ c ∧ c ≤ '9' then some (c.toNat - '0'.toNat)
  else if 'a' ≤ c ∧ c ≤ 'f' then some (c.toNat - 'a'.toNat + 10)
  else if 'A' ≤ c ∧ c ≤ 'F' then some (c.toNat - 'A'.toNat + 10)
  else none

/-- The number a digit string writes, most significant digit first, continuing from `acc`. -/
def parseDigits (base : Nat) (digit : Char → Option Nat) (acc : Nat) : List Char → Option Nat
  | [] => some acc
  | c :: cs =>
    match digit c with
    | some d => parseDigits base digit (acc * base + d) cs
    | none => none

/-- A digit string of at least one digit. -/
def parseNat (base : Nat) (digit : Char → Option Nat) : List Char → Option Nat
  | [] => none
  | c :: cs => parseDigits base digit 0 (c :: cs)

/-- `<int>` (R62): a decimal integer with an optional `-`, or a `0x` hexadecimal integer. -/
def parseInt : List Char → Option Int
  | '0' :: 'x' :: ds => (parseNat 16 hexDigit ds).map Int.ofNat
  | '-' :: ds => (parseNat 10 decDigit ds).map fun n => -(n : Int)
  | ds => (parseNat 10 decDigit ds).map Int.ofNat

/-- The operand of `SHIELD` (R62): `0` or `1`, with `OFF` and `ON` as spellings. -/
def parseFlag : List Char → Option Bit
  | ['0'] => some false
  | ['1'] => some true
  | ['O', 'F', 'F'] => some false
  | ['O', 'N'] => some true
  | _ => none

/-- A speed operand: an integer in range for the speed width `w`, or the line is refused (R62). -/
def parseSpeed (w : Nat) (l : List Char) : Except AsmError Int :=
  match parseInt l with
  | none => .error .badOperand
  | some a => if inSpeedRange w a then .ok a else .error .outOfRange

/-- A command with two speed operands. -/
def assemblePair (w : Nat) (mk : Int → Int → Instr) : List (List Char) → Except AsmError Instr
  | [x, y] =>
    match parseSpeed w x, parseSpeed w y with
    | .ok a, .ok b => .ok (mk a b)
    | .error e, _ => .error e
    | _, .error e => .error e
  | _ => .error .operandCount

/-- A command with one speed operand. -/
def assembleTurn (w : Nat) (mk : Int → Instr) : List (List Char) → Except AsmError Instr
  | [x] =>
    match parseSpeed w x with
    | .ok a => .ok (mk a)
    | .error e => .error e
  | _ => .error .operandCount

/-- `STOP`, which takes no operand. -/
def assembleStop : List (List Char) → Except AsmError Instr
  | [] => .ok .stop
  | _ => .error .operandCount

/-- `SHIELD <0|1>`. -/
def assembleShield : List (List Char) → Except AsmError Instr
  | [x] =>
    match parseFlag x with
    | some f => .ok (.shield f)
    | none => .error .badOperand
  | _ => .error .operandCount

/-- The command of one source line, for speed width `w` (R62): a case-insensitive mnemonic, then operands separated by commas. -/
def assemble (w : Nat) (line : List Char) : Except AsmError Instr :=
  let body := trimBlanks (stripComment line)
  let rest := trimBlanks (body.dropWhile fun c => !isBlank c)
  let operands := if rest.isEmpty then [] else (splitCommas rest).map trimBlanks
  match (body.takeWhile fun c => !isBlank c).map Char.toUpper with
  | [] => .error .noCommand
  | ['S', 'E', 'T', 'F', 'W', 'D'] => assemblePair w .setfwd operands
  | ['S', 'E', 'T', 'B', 'W', 'D'] => assemblePair w .setbwd operands
  | ['S', 'E', 'T', 'T', 'L'] => assembleTurn w .settl operands
  | ['S', 'E', 'T', 'T', 'R'] => assembleTurn w .settr operands
  | ['S', 'T', 'O', 'P'] => assembleStop operands
  | ['S', 'H', 'I', 'E', 'L', 'D'] => assembleShield operands
  | _ => .error .unknownMnemonic

/-- The command word of one source line, for speed width `w` (R63). -/
def assembleWord (w : Nat) (line : List Char) : Except AsmError (BitVec (2 * w + 8)) :=
  match assemble w line with
  | .ok i => .ok (encodeAt w i)
  | .error e => .error e

end Sys2Proof.Machine
end

