-- ==== Sys2Proof/Machine/Environment.lean ====
section
/-! DEFINITION. What is observed at the platform's devices: the PWM outputs (60_exceptions.md R151), the power stage (R152),
the settle holds (70_reset_and_hazards.md R171), and the observation of a run (10_state.md R35). -/

namespace Sys2Proof.Machine

/-- One PWM output: an active-high pulse of `pulse` microseconds once per `period` (R106, R151). -/
structure PwmOutput where
  pulse : Duty
  period : Nat
deriving DecidableEq, Repr

/-- The waveform of channel `ch`, none where the channel has not been started (R33, R151). -/
def State.pwmOutput (s : State) (ch : Channel) : Option PwmOutput :=
  if s.run.get ch then some ⟨s.dur.get ch, s.cfg.pwmPeriod⟩ else none

/-- The level of the receiver's output for the direction bit `h` of channel `ch`: `OUT[BITPOS(ch, h)]` (R127, R152). -/
def State.halfBridge (s : State) (ch : Channel) (h : Half) : Bit := s.out.getLsbD (s.cfg.bitpos.get ch h).val

/-- `drive(ch)` (R152). With both direction bits set it is a free value, drawn at each event (assumption log 8). -/
def State.drive (s : State) (ch : Channel) : Drive :=
  if s.line.enN then .off
  else
    match s.halfBridge ch .a, s.halfBridge ch .b with
    | false, false => .coast
    | true, false => .dirA (s.dur.get ch)
    | false, true => .dirB (s.dur.get ch)
    | true, true => Config.freeDrive s.trace.length ch

/-- The least time a trace takes: `T_SETTLE` for each SETTLE, and no other bound (R171, R172). -/
def minDuration (c : Config) (es : List Event) : Nat := es.count .settle * c.tSettle

/-- The observation of a run (R35): its events, the final block state, and the receiver's final OUT. Time is not observed. -/
structure Observation where
  events : List Event
  duty : PerChannel Duty
  shieldEn : Bit
  line : Lines
  mode : Mode
  fault : FaultCode
  out : Byte
deriving DecidableEq, Repr

/-- What is observed of a run that has come to `s` (R35). -/
def State.observe (s : State) : Observation :=
  ⟨s.trace, s.duty, s.shieldEn, s.line, s.mode, s.fault, s.out⟩

end Sys2Proof.Machine
end

