-- ==== Sys2Proof/Safety.lean ====
section
/-! DEFINITION. The terms that claims about the machine use: readiness, runs and their ends, the invariants, and the tables of
what a completed command leaves. -/

namespace Sys2Proof.Machine

/-- The block accepts a word: `ready = 1` (R28). -/
def State.Ready (s : State) : Prop := s.fault = .noFault ∧ s.busy = false

/-- `k` steps of the machine, as the host's interface runs it. -/
def runSteps (k : Nat) (s : State) : Outcome := Host.Core.run Sys2Proof.core k s

/-- A run has ended: `BUSY = 0` and CALLER presents no further word (R174). DESIGN CHOICE (assumption log 25): R174 speaks
only of words; here a run has ended only once CALLER has no move left at all, so a remaining `rst` or idle move, which
presents no word, keeps the run open until it is taken. -/
def State.RunEnded (s : State) : Prop := s.busy = false ∧ s.port = []

/-- A good end of a run (R35, R174). -/
def State.GoodEnd (s : State) : Prop := s.RunEnded ∧ s.fault = .noFault

/-- A legal duty value (R23, R36): a `DUTY_W`-bit number and, where every result of `clampAndMap` fits, one from
`DUTY_OFFSET` to `DUTY_OFFSET + SPEED_MAX`, which is [1000, 2000] at the default constants (R102). -/
def legalDuty (c : Config) (v : Duty) : Prop :=
  v < 2 ^ c.dutyW ∧ (c.DutiesFit → c.dutyOffset ≤ v ∧ v ≤ c.dutyOffset + c.speedMax)

/-- An event whose duty, where it has one, is legal (R42). -/
def Event.legal (c : Config) : Event → Prop
  | .pwmSet _ v => legalDuty c v
  | .pwmStart _ => True
  | .pin _ _ => True
  | .settle => True

/-- What holds in every reachable state of a block whose handles are valid (R36), with what makes it inductive. -/
structure State.Consistent (s : State) : Prop where
  /-- R36, first clause. -/
  dutyLegal : ∀ ch, legalDuty s.cfg (s.duty.get ch)
  /-- The events still to come keep it so. -/
  pendLegal : ∀ e ∈ s.pend, e.legal s.cfg
  /-- R36, second clause. -/
  enable : s.line.enN = !s.shieldEn
  /-- R36, third clause; the two are written by the same event (R42), so it holds during a command too. -/
  mirrored : s.dur = s.duty
  /-- R29: `BUSY = 1` exactly when PEND is not empty. -/
  busyIff : s.busy = !s.pend.isEmpty
  /-- R173: at most 39 micro-steps remain. -/
  pendShort : s.pend.length ≤ 39
  /-- No MODE update is waiting while no command is in flight (R46). -/
  postNone : s.busy = false → s.post = none
  /-- R143: a halted block is not busy. -/
  haltedIdle : s.fault ≠ .noFault → s.busy = false

/-- The block is halted with nothing in flight (R143), and its registers hold `DUTY_W`-bit values (R23, R33). -/
structure State.HaltedClean (s : State) : Prop where
  notBusy : s.busy = false
  pendEmpty : s.pend = []
  postNone : s.post = none
  dutyWidth : ∀ ch, s.duty.get ch < 2 ^ s.cfg.dutyW
  durWidth : ∀ ch, s.dur.get ch < 2 ^ s.cfg.dutyW

/-- The machine's invariant. Where CFG_VALID is true, F_CONFIG never occurs and R36 holds; where it is false the block is
halted in F_CONFIG, and its outputs are unspecified (R144). -/
def State.Inv (s : State) : Prop :=
  (s.cfg.cfgValid = true ∧ s.fault ≠ .fConfig ∧ s.Consistent) ∨
  (s.cfg.cfgValid = false ∧ s.fault = .fConfig ∧ s.HaltedClean)

/-- The masks a block under configuration `c` ever sends (R73, R84). -/
def sentMasks (c : Config) : List Byte :=
  [maskFwd c.bitpos, maskBwd c.bitpos, maskTl c.bitpos, maskTr c.bitpos] ++
    match c.stopTx with
    | .none => []
    | .zero => [0x00#8]

/-- The serial lines are in order (R122, R169): each pending event leaves OUT as it is or makes it a whole mask, and once no
command is pending CLK is low (unless a fault has cut a transfer short). -/
structure State.SerialSafe (s : State) : Prop where
  outKept : ∀ n, (s.microSteps (n + 1)).out = (s.microSteps n).out ∨ (s.microSteps (n + 1)).out ∈ sentMasks s.cfg
  clockLow : s.fault = .noFault → s.drain.line.clk = false

/-- The mask a command transmits, none where it transmits nothing (R80 to R85). -/
def maskSent (c : Config) : Instr → Option Byte
  | .setfwd _ _ => some (maskFwd c.bitpos)
  | .setbwd _ _ => some (maskBwd c.bitpos)
  | .settl _ => some (maskTl c.bitpos)
  | .settr _ => some (maskTr c.bitpos)
  | .stop => match c.stopTx with
    | .none => none
    | .zero => some 0x00#8
  | .shield _ => none

/-- The four motion commands (R77). -/
def isMotion : Instr → Bool
  | .setfwd _ _ => true
  | .setbwd _ _ => true
  | .settl _ => true
  | .settr _ => true
  | .stop => false
  | .shield _ => false

/-- MODE after a command completes, from the MODE before it (R88). -/
def modeAfter (m : Mode) : Instr → Mode
  | .setfwd _ _ => .forward
  | .setbwd _ _ => .backward
  | .settl _ => .turningLeft
  | .settr _ => .turningRight
  | .stop => .stopped
  | .shield _ => m

/-- SHIELD_EN after a command completes (R88). -/
def shieldAfter : Instr → Bit
  | .setfwd _ _ => true
  | .setbwd _ _ => true
  | .settl _ => true
  | .settr _ => true
  | .stop => false
  | .shield f => f

/-- The duties after a command completes, from the duties before it (R76; `SHIELD` writes none, R85). -/
def dutyAfter (c : Config) (old : PerChannel Duty) : Instr → PerChannel Duty
  | .setfwd a b => PerChannel.ofFn (pairDuty c a b)
  | .setbwd a b => PerChannel.ofFn (pairDuty c a b)
  | .settl a => PerChannel.ofFn fun _ => dutyOf c a
  | .settr a => PerChannel.ofFn fun _ => dutyOf c a
  | .stop => PerChannel.minimumDuty c
  | .shield _ => old

/-- The half-bridge each motion command selects on a channel (R73); `STOP` and `SHIELD` select none. -/
def selectedHalf : Instr → Channel → Option Half
  | .setfwd _ _, .m1 => some .b
  | .setfwd _ _, .m2 => some .b
  | .setfwd _ _, .m3 => some .a
  | .setfwd _ _, .m4 => some .a
  | .setbwd _ _, .m1 => some .a
  | .setbwd _ _, .m2 => some .a
  | .setbwd _ _, .m3 => some .b
  | .setbwd _ _, .m4 => some .b
  | .settl _, _ => some .b
  | .settr _, _ => some .a
  | .stop, _ => none
  | .shield _, _ => none

/-- The drive of a half-bridge at a duration (R152). -/
def Drive.ofHalf (v : Duty) : Half → Drive
  | .a => .dirA v
  | .b => .dirB v

/-- The state a motion command leaves, from a ready block whose CLK line is low (R80 to R83): every field named here is
written, every other is as before. What WORK and BITCNT hold then is the model's choice (R30; assumption log 6). -/
def State.afterMotion (s : State) (mask : Byte) (d : Channel → Duty) (mode : Mode) : State :=
  { s with
    duty := PerChannel.ofFn d
    dur := PerChannel.ofFn d
    shieldEn := true
    line := ⟨mask.getLsbD 0, false, true, false⟩
    mode := mode
    busy := false
    pend := []
    post := none
    work := 0#8
    bitcnt := 8#4
    sr := mask
    out := mask
    trace := s.trace ++ (dutyWrites d ++ transmit mask ++ [.pin .enN false]) }

end Sys2Proof.Machine
end

