-- ==== Sys2Proof/Certificates/Slice0/Obligations.lean ====
section
/-! DEFINITION. The statements for the provers, one definition each; OBLIGATIONS.json says which rule each formalises. -/

open Sys2Proof Sys2Proof.Machine

/-! ## The step and the command port -/

/-- A presented word that decodes to a command, from a caller that waits: the step is exec of that command, at the state with
the move taken from the port. It holds of a halted and of a busy block too (R46, R86). The port is the model's form of CALLER
(assumption log 1). -/
def Obligations.StepRunsPresentedCommand : Prop :=
  ∀ (s : State) (p : PortInput) (rest : List PortInput) (i : Instr),
    s.port = p :: rest → p.rst = false → p.valid = true → p.waits = true → decodeWord s.cfg.speedW p.cw = .ok i →
      step s = exec i { s with port := rest }

/-- A strobed word on a ready block is accepted: BUSY is 1, PEND is the command's whole trace, and nothing has been emitted;
only the serializer's internal WORK and BITCNT may change besides (R28, R29, R46). -/
def Obligations.StrobedWordIsAccepted : Prop :=
  ∀ (s : State) (p : PortInput) (rest : List PortInput) (i : Instr),
    s.port = p :: rest → p.rst = false → p.valid = true → p.waits = false →
      decodeWord s.cfg.speedW p.cw = .ok i → s.Ready →
      ∃ t, step s = .next t ∧ t.ready = false ∧
        t = { s with
          port := rest
          busy := true
          pend := (commandOf s.cfg i).trace
          post := (commandOf s.cfg i).post
          work := t.work
          bitcnt := t.bitcnt }

/-- After a strobed word, each step with nothing presented emits the next event of the command's trace; BUSY stays 1 and MODE
stays as it was while events remain (R46, R50). -/
def Obligations.MicroStepsEmitTraceInOrder : Prop :=
  ∀ (s : State) (cw : Nat) (i : Instr) (k : Nat),
    s.port = [PortInput.strobe cw] → decodeWord s.cfg.speedW cw = .ok i → s.Ready → k < (commandOf s.cfg i).trace.length →
      ∃ t, runSteps (k + 1) s = .next t ∧ t.trace = s.trace ++ (commandOf s.cfg i).trace.take k ∧
        t.pend = (commandOf s.cfg i).trace.drop k ∧ t.busy = true ∧ t.mode = s.mode

/-- The micro-step model and the command-level model agree: a strobed word followed by one step per event of its trace leaves
exactly the state that the command's meaning gives in one step (R46). That `exec` is the command-level model and a strobe the
micro-step model is the model's choice (assumption log 1). -/
def Obligations.MicroStepsRefineCommand : Prop :=
  ∀ (s : State) (cw : Nat) (i : Instr),
    s.port = [PortInput.strobe cw] → decodeWord s.cfg.speedW cw = .ok i → s.Ready →
      runSteps ((commandOf s.cfg i).trace.length + 1) s = exec i { s with port := [] }

/-- Every step answers a next state: no fault and no refusal outcome, in any state (the model's
reading of the spec's faults as states: assumption log 13). -/
def Obligations.EveryStepAnswersANextState : Prop := ∀ s : State, ∃ t, step s = .next t

/-! ## Encoding -/

/-- At every speed width, decoding the encoding of a well-formed command gives it back (R55, R58, R63). -/
def Obligations.DecodeInvertsEncodeAtEveryWidth : Prop :=
  ∀ (w : Nat) (i : Instr), 0 < w → i.wellFormedAt w = true → decodeAt w (encodeAt w i) = .ok i

/-- At every speed width, a decoded command is well formed, and its encoding is the word with the ignored fields cleared (R56,
R60, R63). -/
def Obligations.DecodedCommandReencodes : Prop :=
  ∀ (w : Nat) (cw : BitVec (2 * w + 8)) (i : Instr), decodeAt w cw = .ok i →
    i.wellFormedAt w = true ∧ encodeAt w i = cw &&& i.usedMaskAt w

/-- At every speed width, exactly the words with a reserved opcode or a nonzero reserved field are Illegal, and each raises
F_ILLEGAL on a ready block (R59). -/
def Obligations.ReservedWordsAreIllegal : Prop :=
  (∀ (w : Nat) (cw : BitVec (2 * w + 8)), (∃ e, decodeAt w cw = .error e) ↔
    (cw.extractLsb' (2 * w + 1) 3 ≠ 0#3 ∨ cw.extractLsb' (2 * w + 4) 4 = 0#4 ∨
      7 ≤ (cw.extractLsb' (2 * w + 4) 4).toNat)) ∧
  ∀ (s : State) (p : PortInput) (rest : List PortInput) (e : Illegal),
    s.port = p :: rest → p.rst = false → p.valid = true → decodeWord s.cfg.speedW p.cw = .error e →
      s.Ready →
      ∃ t, step s = .next t ∧ t.fault = .fIllegal

/-- At every speed width, a field its command does not use may hold any value: two words that agree on the used fields decode
alike; the encoder writes 0 in every ignored field (R60). -/
def Obligations.UnusedFieldsAreIgnored : Prop :=
  ∀ w : Nat,
    (∀ (cw cw' : BitVec (2 * w + 8)) (i : Instr), decodeAt w cw = .ok i →
      cw &&& i.usedMaskAt w = cw' &&& i.usedMaskAt w → decodeAt w cw' = .ok i) ∧
    ∀ i : Instr, encodeAt w i &&& ~~~ i.usedMaskAt w = 0#(2 * w + 8)

/-- A word decodes to a command of an opcode exactly when it matches `OP << 68` under the mask `CW[71:65]` (R66, which the spec
marks as derived). -/
def Obligations.WordsMatchTheOpcodeTable : Prop :=
  (∀ (cw : CW) (i : Instr), decode cw = .ok i → cw &&& matchMask = i.matchWord) ∧
  ∀ (cw : CW) (j : Instr), cw &&& matchMask = j.matchWord → ∃ i, decode cw = .ok i ∧ i.opcode = j.opcode

/-- The example words of the spec decode to the commands it names (R65, 95_test_vectors.md section 2.4). -/
def Obligations.SpecExampleWordsDecode : Prop :=
  decode 0x100000025800000258#72 = .ok (.setfwd 600 600) ∧ decode 0x10FFFFFFCE000007D0#72 = .ok (.setfwd (-50) 2000) ∧
  decode 0x2000000000000003E8#72 = .ok (.setbwd 0 1000) ∧ decode 0x300000012C00000000#72 = .ok (.settl 300) ∧
  decode 0x40000005DC00000000#72 = .ok (.settr 1500) ∧ decode 0x500000000000000000#72 = .ok .stop ∧
  decode 0x610000000500000007#72 = .ok (.shield true) ∧ decode 0x600000000000000000#72 = .ok (.shield false)

/-- At every speed width, an assembled line gives a command in range, and its word decodes to that command (R62, R63). -/
def Obligations.AssembledWordDecodesBack : Prop :=
  ∀ (w : Nat) (line : List Char) (cw : BitVec (2 * w + 8)), 0 < w → assembleWord w line = .ok cw →
    ∃ i, assemble w line = .ok i ∧ i.wellFormedAt w = true ∧ cw = encodeAt w i ∧ decodeAt w cw = .ok i

/-! ## The commands -/

/-- `SETFWD` and `SETBWD` on a ready block with CLK low: the duties of each channel group, the mask sent and latched, the
shield on, MODE, and the events; everything else as before (R76, R77, R80, R81). That WORK is 0 and BITCNT is 8 after the
command is the model's choice (assumption log 6): R30 leaves both unspecified between commands. At clamp constants whose
results do not fit the duty registers, the equal duties of a group's channels, and of both commands, are the model's choice
(assumption log 23). SR and OUT rest on the receiver model (assumption log 19). -/
def Obligations.PairCommandResult : Prop :=
  ∀ (s : State) (a b : Int), s.Ready → s.line.clk = false →
    exec (.setfwd a b) s = .next (s.afterMotion (maskFwd s.cfg.bitpos)
      (fun ch => dutyOf s.cfg (if s.cfg.leftGroup.contains ch then a else b)) .forward) ∧
    exec (.setbwd a b) s = .next (s.afterMotion (maskBwd s.cfg.bitpos)
      (fun ch => dutyOf s.cfg (if s.cfg.leftGroup.contains ch then a else b)) .backward)

/-- `SETTL` and `SETTR` on a ready block with CLK low: one duty on all channels, the mask sent and latched, the shield on,
MODE, and the events; everything else as before (R76, R77, R82, R83). That WORK is 0 and BITCNT is 8 after the command is the
model's choice (assumption log 6): R30 leaves both unspecified between commands. At clamp constants whose results do not fit
the duty registers, the equal duties of the four channels, and of both commands, are the model's choice (assumption log 23).
SR and OUT rest on the receiver model (assumption log 19). -/
def Obligations.TurnCommandResult : Prop :=
  ∀ (s : State) (a : Int), s.Ready → s.line.clk = false →
    exec (.settl a) s = .next (s.afterMotion (maskTl s.cfg.bitpos) (fun _ => dutyOf s.cfg a) .turningLeft) ∧
    exec (.settr a) s = .next (s.afterMotion (maskTr s.cfg.bitpos) (fun _ => dutyOf s.cfg a) .turningRight)

/-- `STOP` on a ready block: the minimum duties (1000 at the source's constants, R108), the shield off, MODE STOPPED; with
STOP_TX = NONE nothing is sent and the serial lines and the receiver keep their values, with STOP_TX = ZERO (and CLK low) the
zero mask is sent and latched (R84). That WORK and BITCNT keep their values with NONE, and are 0 and 8 with ZERO, is the
model's choice (assumption log 6): R30 leaves them unspecified between commands. At clamp constants whose results do not fit
the duty registers, the equal duties of the four channels are the model's choice (assumption log 23). With ZERO, SR and OUT
rest on the receiver model (assumption log 19). -/
def Obligations.StopResult : Prop :=
  ∀ s : State, s.Ready →
    (s.cfg.stopTx = .none →
      exec .stop s = .next { s with
        duty := PerChannel.minimumDuty s.cfg
        dur := PerChannel.minimumDuty s.cfg
        shieldEn := false
        line := { s.line with enN := true }
        mode := .stopped
        busy := false
        pend := []
        post := none
        trace := s.trace ++ (dutyWrites (fun _ => dutyOf s.cfg 0) ++ [.pin .enN true]) }) ∧
    (s.cfg.stopTx = .zero → s.line.clk = false →
      exec .stop s = .next { s with
        duty := PerChannel.minimumDuty s.cfg
        dur := PerChannel.minimumDuty s.cfg
        shieldEn := false
        line := ⟨false, false, true, true⟩
        mode := .stopped
        busy := false
        pend := []
        post := none
        work := 0#8
        bitcnt := 8#4
        sr := 0x00#8
        out := 0x00#8
        trace := s.trace ++ (dutyWrites (fun _ => dutyOf s.cfg 0) ++ transmit 0x00#8 ++ [.pin .enN true]) }) ∧
    (s.cfg.SourceConstants → PerChannel.minimumDuty s.cfg = ⟨1000, 1000, 1000, 1000⟩)

/-- `SHIELD f` on a ready block: EN_N and SHIELD_EN only, one event; MODE, the duties and the receiver as before (R85). -/
def Obligations.ShieldResult : Prop :=
  ∀ (s : State) (f : Bit), s.Ready →
    exec (.shield f) s = .next { s with
      shieldEn := f
      line := { s.line with enN := !f }
      busy := false
      pend := []
      post := none
      trace := s.trace ++ [.pin .enN (!f)] }

/-- A command on a halted block has no effect; on a busy block it raises F_BUSY, and no rule of the command applies (R86). -/
def Obligations.UnreadyBlockTurnsCommandsAway : Prop :=
  ∀ (s : State) (i : Instr),
    (s.fault ≠ .noFault → exec i s = .next s) ∧
    (s.fault = .noFault → s.busy = true →
      exec i s = .next { s with fault := .fBusy, pend := [], post := none, busy := false })

/-- The table of R88: MODE, SHIELD_EN and the receiver's OUT after any command that completes, whatever they were before. -/
def Obligations.CommandsFollowTheModeTable : Prop :=
  ∀ (s : State) (i : Instr), s.Ready →
    ∃ t, exec i s = .next t ∧ t.Ready ∧ t.mode = modeAfter s.mode i ∧ t.shieldEn = shieldAfter i ∧
      (maskSent s.cfg i = none → t.out = s.out) ∧
      (∀ m, maskSent s.cfg i = some m → s.line.clk = false → t.out = m)

/-- Duty selection (R76): every command completes; after SETFWD and SETBWD the left group holds the first speed's duty and the
right group the second's, after SETTL and SETTR every channel holds the one speed's, after STOP every channel holds
`clampAndMap(0)`, which is 1000 at the source's constants; SHIELD changes none (R85). The PWM device holds the same where the
command writes them. The values are stated for every configuration whose duty registers hold all results of `clampAndMap`, as
R102 says of the defaults. -/
def Obligations.CommandsSelectDutiesByGroup : Prop :=
  ∀ s : State, s.Ready →
    (∀ a b, ∃ t, exec (.setfwd a b) s = .next t ∧ ∀ ch,
      (s.cfg.DutiesFit → (t.duty.get ch : Int) =
        (if s.cfg.leftGroup.contains ch then clampAndMap s.cfg a else clampAndMap s.cfg b)) ∧
      t.dur.get ch = t.duty.get ch) ∧
    (∀ a b, ∃ t, exec (.setbwd a b) s = .next t ∧ ∀ ch,
      (s.cfg.DutiesFit → (t.duty.get ch : Int) =
        (if s.cfg.leftGroup.contains ch then clampAndMap s.cfg a else clampAndMap s.cfg b)) ∧
      t.dur.get ch = t.duty.get ch) ∧
    (∀ a, ∃ t, exec (.settl a) s = .next t ∧ ∀ ch,
      (s.cfg.DutiesFit → (t.duty.get ch : Int) = clampAndMap s.cfg a) ∧ t.dur.get ch = t.duty.get ch) ∧
    (∀ a, ∃ t, exec (.settr a) s = .next t ∧ ∀ ch,
      (s.cfg.DutiesFit → (t.duty.get ch : Int) = clampAndMap s.cfg a) ∧ t.dur.get ch = t.duty.get ch) ∧
    (∃ t, exec .stop s = .next t ∧ ∀ ch,
      (s.cfg.DutiesFit → (t.duty.get ch : Int) = clampAndMap s.cfg 0) ∧
      (s.cfg.SourceConstants → clampAndMap s.cfg 0 = 1000 ∧ t.duty.get ch = 1000) ∧ t.dur.get ch = t.duty.get ch) ∧
    (∀ f, ∃ t, exec (.shield f) s = .next t ∧ t.duty = s.duty ∧ t.dur = s.dur)

/-- A motion command issued twice (R87, which the spec marks as derived): the same duties, OUT and MODE, SHIELD_EN 1 both times;
the second run never drives EN_N to 1, and OUT has the same value at each of its micro-steps. At clamp constants whose results
do not fit the duty registers, the equal duties are the model's choice (assumption log 23). -/
def Obligations.MotionCommandsAreIdempotent : Prop :=
  ∀ (s : State) (i : Instr), isMotion i = true → s.Ready → s.line.clk = false →
    ∃ t u es, exec i s = .next t ∧ exec i t = .next u ∧ u.duty = t.duty ∧ u.out = t.out ∧ u.mode = t.mode ∧
      t.shieldEn = true ∧ u.shieldEn = true ∧ u.trace = t.trace ++ es ∧ Event.pin .enN true ∉ es ∧
      ∀ n, ((t.accept (commandOf t.cfg i)).microSteps n).out = t.out

/-- The event counts of R172, which the spec marks as derived: reset 12, a motion command 39 of which 8 SETTLE, STOP 5 or 39,
SHIELD 1; so a motion command takes at least 8 settle times. -/
def Obligations.EventCountsAreAsListed : Prop :=
  ∀ c : Config,
    ((resetTrace c).length = 12 ∧ (resetTrace c).count .settle = 0) ∧
    (∀ i, isMotion i = true → (commandOf c i).trace.length = 39 ∧ (commandOf c i).trace.count .settle = 8 ∧
      8 * c.tSettle ≤ minDuration c (commandOf c i).trace) ∧
    (c.stopTx = .none → (commandOf c .stop).trace.length = 5 ∧ (commandOf c .stop).trace.count .settle = 0) ∧
    (c.stopTx = .zero → (commandOf c .stop).trace.length = 39 ∧ (commandOf c .stop).trace.count .settle = 8) ∧
    (∀ f, (commandOf c (.shield f)).trace.length = 1 ∧ (commandOf c (.shield f)).trace.count .settle = 0)

/-- The transient of R166, which the spec marks as derived: from the fourth event of a strobed motion command until its latch
edge, the event before the last, the new duties stand beside the old OUT and the old shield state; the edge brings the mask,
the last event the shield. OUT rests on the receiver model (assumption log 19); which duties stand where a result does not fit
the duty registers, on assumption log 23. -/
def Obligations.NewDutiesPrecedeNewDirection : Prop :=
  ∀ (s : State) (cw : Nat) (i : Instr) (m : Byte) (n : Nat),
    s.port = [PortInput.strobe cw] → decodeWord s.cfg.speedW cw = .ok i → isMotion i = true → maskSent s.cfg i = some m →
      s.Ready → s.line.clk = false → n ≤ 38 →
      ∃ t, runSteps (n + 1) s = .next t ∧ t.shieldEn = s.shieldEn ∧ t.line.enN = s.line.enN ∧
        (n < 38 → t.out = s.out) ∧ (n = 38 → t.out = m) ∧
        (4 ≤ n → t.duty = dutyAfter s.cfg s.duty i ∧ t.dur = dutyAfter s.cfg s.duty i)

/-- What the power stage does after a command (R152): a motion command drives each channel by the half-bridge its mask
selects, at the channel's new duty; STOP and SHIELD 0 turn every motor off. It rests on the receiver model (assumption log 19),
and where a result does not fit the duty registers, on assumption log 23. -/
def Obligations.DriveFollowsTheCommand : Prop :=
  ∀ s : State, s.Ready →
    (∀ i, isMotion i = true → s.line.clk = false →
      ∃ t, exec i s = .next t ∧ ∀ ch, ∃ h, selectedHalf i ch = some h ∧
        t.drive ch = Drive.ofHalf ((dutyAfter s.cfg s.duty i).get ch) h) ∧
    (∃ t, exec .stop s = .next t ∧ ∀ ch, t.drive ch = .off) ∧
    (∃ t, exec (.shield false) s = .next t ∧ ∀ ch, t.drive ch = .off)

/-- The power stage's table (R152): OFF with EN_N at 1; else COAST, the A half-bridge or the B half-bridge at DUR by the two
direction bits of the channel. With both bits set nothing is said: the value is unspecified. -/
def Obligations.PowerStageFollowsItsTable : Prop :=
  ∀ (s : State) (ch : Channel),
    (s.line.enN = true → s.drive ch = .off) ∧
    (s.line.enN = false → s.out.getLsbD (s.cfg.bitpos.get ch .a).val = false →
      s.out.getLsbD (s.cfg.bitpos.get ch .b).val = false → s.drive ch = .coast) ∧
    (s.line.enN = false → s.out.getLsbD (s.cfg.bitpos.get ch .a).val = true →
      s.out.getLsbD (s.cfg.bitpos.get ch .b).val = false → s.drive ch = .dirA (s.dur.get ch)) ∧
    (s.line.enN = false → s.out.getLsbD (s.cfg.bitpos.get ch .a).val = false →
      s.out.getLsbD (s.cfg.bitpos.get ch .b).val = true → s.drive ch = .dirB (s.dur.get ch))

/-! ## The write events -/

/-- Each event writes its target and nothing else (R42 to R45, R109): PWM_SET one channel's DUTY and DUR, PWM_START one
channel's RUN, PIN one line (EN_N with SHIELD_EN: assumption log 16), SETTLE nothing; each is added to the trace. -/
def Obligations.EventsWriteOnlyTheirTarget : Prop :=
  ∀ s : State,
    (∀ ch v, ∃ t, s.apply (.pwmSet ch v) = t ∧ (∀ ch', t.duty.get ch' = if ch' = ch then v else s.duty.get ch') ∧
      (∀ ch', t.dur.get ch' = if ch' = ch then v else s.dur.get ch') ∧
      t = { s with duty := t.duty, dur := t.dur, trace := s.trace ++ [.pwmSet ch v] }) ∧
    (∀ ch, ∃ t, s.apply (.pwmStart ch) = t ∧ (∀ ch', t.run.get ch' = if ch' = ch then true else s.run.get ch') ∧
      t = { s with run := t.run, trace := s.trace ++ [.pwmStart ch] }) ∧
    s.apply .settle = { s with trace := s.trace ++ [.settle] } ∧
    (∀ q b, ∃ t, s.apply (.pin q b) = t ∧ (∀ q', t.line.get q' = if q' = q then b else s.line.get q') ∧
      t.shieldEn = (if q = .enN then !b else s.shieldEn) ∧
      t = { s with
        line := t.line
        shieldEn := t.shieldEn
        work := t.work
        bitcnt := t.bitcnt
        sr := t.sr
        out := t.out
        trace := s.trace ++ [.pin q b] })

/-- The receiver (R125): a rising edge of CLK shifts DATA into SR, a rising edge of LATCH copies SR to OUT, and no other event
changes either. The spec takes it from general knowledge (assumption log 19). -/
def Obligations.ReceiverReactsToRisingEdgesOnly : Prop :=
  ∀ (s : State) (e : Event),
    (e = .pin .clk true → s.line.clk = false →
      (s.apply e).sr = ((s.sr <<< 1) ||| (if s.line.data then 0x01#8 else 0x00#8)) ∧ (s.apply e).out = s.out) ∧
    (e = .pin .latch true → s.line.latch = false → (s.apply e).out = s.sr ∧ (s.apply e).sr = s.sr) ∧
    (¬ (e = .pin .clk true ∧ s.line.clk = false) → ¬ (e = .pin .latch true ∧ s.line.latch = false) →
      (s.apply e).sr = s.sr ∧ (s.apply e).out = s.out)

/-! ## The duty mapper -/

/-- `clampAndMap` in piecewise form (R101, which the spec marks as derived from R100), for every clamp constants, and with the
numbers of R101 at the source's. -/
def Obligations.ClampAndMapIsPiecewise : Prop :=
  ∀ (c : Config) (x : Int),
    (0 ≤ c.speedMax →
      (x ≤ 0 → clampAndMap c x = c.dutyOffset) ∧
      (0 ≤ x → x ≤ c.speedMax → clampAndMap c x = x + c.dutyOffset) ∧
      (c.speedMax ≤ x → clampAndMap c x = c.speedMax + c.dutyOffset)) ∧
    (c.speedMax < 0 → clampAndMap c x = c.speedMax + c.dutyOffset) ∧
    (c.speedMax = 1000 → c.dutyOffset = 1000 →
      (x ≤ 0 → clampAndMap c x = 1000) ∧ (0 ≤ x → x ≤ 1000 → clampAndMap c x = x + 1000) ∧
      (1000 ≤ x → clampAndMap c x = 2000))

/-- The order laws of `clampAndMap` (R103, which the spec marks as derived from R100), for every clamp constants with
`SPEED_MAX` not negative; at the source's the ranges are [0, 1000] and [1000, 2000]. -/
def Obligations.ClampAndMapOrderLaws : Prop :=
  ∀ c : Config, 0 ≤ c.speedMax →
    (∀ x y : Int, x ≤ y → clampAndMap c x ≤ clampAndMap c y) ∧
    (∀ x y : Int, 0 ≤ x → x ≤ c.speedMax → 0 ≤ y → y ≤ c.speedMax → clampAndMap c x = clampAndMap c y → x = y) ∧
    (∀ x y : Int, x ≤ 0 → y ≤ 0 → clampAndMap c x = clampAndMap c y) ∧
    (∀ x y : Int, c.speedMax ≤ x → c.speedMax ≤ y → clampAndMap c x = clampAndMap c y) ∧
    (∀ v : Int, c.dutyOffset ≤ v → v ≤ c.dutyOffset + c.speedMax → ∃ x, clampAndMap c x = v) ∧
    (∀ x : Int, clampAndMap c (clampAndMap c x - c.dutyOffset) = clampAndMap c x)

/-- What a duty register holds (R102, R23): always a number of its width; the result of `clampAndMap` exactly, where the width
can hold it; and so every result, from `DUTY_OFFSET` to `DUTY_OFFSET + SPEED_MAX`, where all of them fit, which at the
source's constants is [1000, 2000] for every `DUTY_W` of at least 11. Where the width cannot hold a result, nothing but the
width is said (assumption log 23). -/
def Obligations.DutyRegisterHoldsClampAndMap : Prop :=
  ∀ (c : Config) (x : Int),
    dutyOf c x < 2 ^ c.dutyW ∧
    (0 ≤ clampAndMap c x → (clampAndMap c x).toNat < 2 ^ c.dutyW → (dutyOf c x : Int) = clampAndMap c x) ∧
    (c.DutiesFit → c.dutyOffset ≤ clampAndMap c x ∧ clampAndMap c x ≤ c.dutyOffset + c.speedMax ∧
      (dutyOf c x : Int) = clampAndMap c x) ∧
    (c.SourceConstants → c.DutiesFit ∧ 1000 ≤ clampAndMap c x ∧ clampAndMap c x ≤ 2000)

/-- The W-bit realization equals `clampAndMap` for every width of at least 11 bits (R104, which the spec marks as
derived from R100), for every clamp constants whose sum the 11-bit adder holds, and every `DUTY_W` of at least 11. -/
def Obligations.HardwareMapperEqualsClampAndMap : Prop :=
  ∀ (c : Config) (w : Nat) (x : BitVec w),
    0 ≤ c.speedMax → 0 ≤ c.dutyOffset → c.speedMax + c.dutyOffset < 2048 → 11 ≤ c.dutyW → 11 ≤ w →
      clampAndMapHw c w x = dutyOf c x.toInt

/-! ## The direction masks -/

/-- The constants of the bit table (R71, which the spec marks as derived from R70), for every bijective BITPOS. -/
def Obligations.BitTableConstantsPartition : Prop :=
  ∀ p : BitPos, allA p &&& allB p = 0x00#8 ∧ allA p ||| allB p = 0xFF#8 ∧ popcount (allA p) = 4 ∧ popcount (allB p) = 4

/-- The mask laws (R74, which the spec marks as derived), for every bijective BITPOS. -/
def Obligations.MaskLawsHoldForEveryBitTable : Prop :=
  ∀ p : BitPos,
    (∀ m ∈ [maskFwd p, maskBwd p, maskTl p, maskTr p],
      popcount m = 4 ∧ (∀ ch, m.getLsbD (p.get ch .a).val ≠ m.getLsbD (p.get ch .b).val) ∧ m ≠ 0x00#8 ∧ m ≠ 0xFF#8) ∧
    (maskFwd p ^^^ maskBwd p = 0xFF#8 ∧ maskBwd p = ~~~ maskFwd p) ∧
    (∀ ch h, (maskFwd p).getLsbD (p.get ch h).val ≠ (maskBwd p).getLsbD (p.get ch h).val) ∧
    (maskTl p ^^^ maskTr p = 0xFF#8 ∧ maskTl p = ~~~ maskTr p) ∧
    (∀ ch ∈ [Channel.m1, Channel.m2], ∀ h,
      (maskTl p).getLsbD (p.get ch h).val = (maskFwd p).getLsbD (p.get ch h).val ∧
      (maskTr p).getLsbD (p.get ch h).val = (maskBwd p).getLsbD (p.get ch h).val) ∧
    (∀ ch ∈ [Channel.m3, Channel.m4], ∀ h,
      (maskTl p).getLsbD (p.get ch h).val = (maskBwd p).getLsbD (p.get ch h).val ∧
      (maskTr p).getLsbD (p.get ch h).val = (maskFwd p).getLsbD (p.get ch h).val) ∧
    [maskFwd p, maskBwd p, maskTl p, maskTr p].Nodup

/-! ## The serializer and the receiver -/

/-- The closed form of a transfer (R116, which the spec marks as derived from R115): LATCH low, then for k = 0 to 7 DATA takes
bit 7-k around one CLK pulse with its settle hold, then LATCH high. -/
def Obligations.TransferHasItsClosedForm : Prop :=
  ∀ m : Byte, transmit m =
    [.pin .latch false] ++
      ((List.range 8).flatMap fun k => [.pin .data (m.getLsbD (7 - k)), .pin .clk true, .settle, .pin .clk false]) ++
      [.pin .latch true]

/-- The transfer law (R126), at every prefix of the transfer: with CLK low at the start, after k rising edges SR holds the
last 8-k bits of its old value and the first k bits sent; OUT keeps its value until the last event and then takes the
mask. The spec marks R126 as derived, and the receiver as general knowledge (assumption log 19). -/
def Obligations.TransferLawHoldsAtEveryEvent : Prop :=
  ∀ (s : State) (m : Byte), s.line.clk = false →
    (∀ n ≤ 34, (s.applyAll ((transmit m).take n)).sr =
      (s.sr <<< ((transmit m).take n).count (.pin .clk true)) |||
        (m >>> (8 - ((transmit m).take n).count (.pin .clk true)))) ∧
    (∀ n < 34, (s.applyAll ((transmit m).take n)).out = s.out) ∧
    (s.applyAll (transmit m)).sr = m ∧ (s.applyAll (transmit m)).out = m

/-- The end state of a transfer (R120): LATCH 1, CLK 0, DATA the mask's bit 0, EN_N untouched; and with the working copy
loaded and CLK low at the start, WORK is 0. The spec marks R120 as derived from R115. -/
def Obligations.TransferEndState : Prop :=
  ∀ (s : State) (m : Byte),
    (s.applyAll (transmit m)).line = ⟨m.getLsbD 0, false, true, s.line.enN⟩ ∧
    (s.line.clk = false → s.work = m → (s.applyAll (transmit m)).work = 0x00#8)

/-- The latch discipline (R118): LATCH is 0 from the first event until the last; all 8 clock pulses fall between; LATCH is
driven to 1 once, as the last event. The spec marks R118 as derived from R115. -/
def Obligations.LatchIsLowDuringTheTransfer : Prop :=
  ∀ (s : State) (m : Byte),
    (∀ n, 1 ≤ n → n < 34 → (s.applyAll ((transmit m).take n)).line.latch = false) ∧
    (transmit m).length = 34 ∧ (transmit m).count (.pin .latch true) = 1 ∧
    (transmit m).getLast? = some (.pin .latch true) ∧
    ((transmit m).drop 1).dropLast.count (.pin .clk true) = 8 ∧
    ((transmit m).drop 1).dropLast.count (.pin .clk false) = 8 ∧
    (transmit m).count (.pin .clk true) = 8

/-- The clock discipline (R119): with CLK low at the start, 8 pulses, each CLK rise followed by SETTLE and the CLK fall; CLK
is 0 at every DATA and LATCH event; so DATA keeps its value across each rising edge and while CLK is 1. The spec marks R119
as derived from R115 and R122. -/
def Obligations.DataIsStableWhileClockIsHigh : Prop :=
  ∀ (s : State) (m : Byte), s.line.clk = false →
    (transmit m).count (.pin .clk true) = 8 ∧
    (∀ n : Nat, (transmit m)[n]? = some (.pin .clk true) →
      (transmit m)[n + 1]? = some .settle ∧ (transmit m)[n + 2]? = some (.pin .clk false)) ∧
    (∀ (n : Nat) (b : Bit), (transmit m)[n]? = some (.pin .data b) ∨ (transmit m)[n]? = some (.pin .latch b) →
      (s.applyAll ((transmit m).take n)).line.clk = false) ∧
    (∀ n : Nat, (transmit m)[n]? = some (.pin .clk true) ∨ (s.applyAll ((transmit m).take n)).line.clk = true →
      (s.applyAll ((transmit m).take (n + 1))).line.data = (s.applyAll ((transmit m).take n)).line.data)

/-- The negative case of R122: a transfer that started with CLK high would lose the first bit sent, leaving
`{SR0[0], m[6:0]}` in SR and OUT. No configuration of this model comes to it (R168, assumption log
12); the spec marks R122's negative case as derived. -/
def Obligations.ClockHighTransferLosesTheFirstBit : Prop :=
  ∀ (s : State) (m : Byte), s.line.clk = true →
    (s.applyAll (transmit m)).sr = (BitVec.ofBool (s.sr.getLsbD 0) ++ m.extractLsb' 0 7 : BitVec 8) ∧
    (s.applyAll (transmit m)).out = (BitVec.ofBool (s.sr.getLsbD 0) ++ m.extractLsb' 0 7 : BitVec 8)

/-- The receiver's shadow register is hidden (R128): changing it changes nothing that a command leaves but the shadow register
itself. It rests on the receiver model (assumption log 19). -/
def Obligations.ShadowRegisterIsHidden : Prop :=
  ∀ (s : State) (x : Byte) (i : Instr), s.Ready → s.line.clk = false →
    ∃ t t', exec i s = .next t ∧ exec i { s with sr := x } = .next t' ∧ t = { t' with sr := t.sr }

/-! ## Faults and reset -/

/-- F_ILLEGAL is precise (R141): on a ready block with nothing in flight, a word that decodes to Illegal changes FAULT and
nothing else, and no event is emitted. -/
def Obligations.IllegalWordIsPrecise : Prop :=
  ∀ (s : State) (p : PortInput) (rest : List PortInput) (e : Illegal),
    s.port = p :: rest → p.rst = false → p.valid = true → decodeWord s.cfg.speedW p.cw = .error e →
      s.Ready → s.pend = [] → s.post = none →
      step s = .next { s with port := rest, fault := .fIllegal }

/-- F_BUSY (R142): any word presented while BUSY = 1, decodable or not, abandons the command in flight; the events already
applied and every line stay. -/
def Obligations.WordWhileBusyAbandonsTheCommand : Prop :=
  ∀ (s : State) (p : PortInput) (rest : List PortInput),
    s.port = p :: rest → p.rst = false → p.valid = true → s.fault = .noFault → s.busy = true →
      step s = .next { s with port := rest, fault := .fBusy, pend := [], post := none, busy := false }

/-- Taking a fault and the halted state (R143): `raise F` writes FAULT, PEND and BUSY (and drops the waiting MODE update) and
nothing else; without `rst`, a step of a halted block emits nothing and changes nothing but the move it takes from the port;
a halted state is no good end of a run. -/
def Obligations.HaltedBlockOnlyLeavesByReset : Prop :=
  (∀ (s : State) (f : FaultCode), s.raise f = { s with fault := f, pend := [], post := none, busy := false }) ∧
  ∀ s : State, s.fault ≠ .noFault →
    (s.port = [] → step s = .next s) ∧
    (∀ p rest, s.port = p :: rest → p.rst = false → step s = .next { s with port := rest }) ∧
    ¬ s.GoodEnd

/-- `rst` beats everything (R147, R162): whatever the block does and whatever else is presented, it starts the reset sequence
with the fault cleared and the command in flight abandoned. -/
def Obligations.ResetBeatsEverything : Prop :=
  ∀ (s : State) (p : PortInput) (rest : List PortInput),
    s.port = p :: rest → p.rst = true → s.cfg.cfgValid = true →
      step s = .next { s with
        port := rest
        fault := .noFault
        busy := true
        mode := .stopped
        pend := resetTrace s.cfg
        post := none }

/-- The reset sequence (R160, R161): 12 events after `rst`, from any state, the block is as R161 lists; the minimum duty is 1000
at the source's constants (R108). SR is kept, and OUT is
kept unless the sequence itself gives a latch edge (RESET_LINES.LATCH = 1 with LATCH low before: assumption log 11). Where the
minimum does not fit the duty registers, its being one value for all channels is the model's choice (assumption log 23). -/
def Obligations.ResetSequenceReachesTheResetState : Prop :=
  ∀ (s : State) (p : PortInput), s.port = [p] → p.rst = true → s.cfg.cfgValid = true →
    ∃ t, runSteps 13 s = .next t ∧ t.duty = PerChannel.minimumDuty s.cfg ∧
      t.dur = PerChannel.minimumDuty s.cfg ∧
      (s.cfg.SourceConstants → PerChannel.minimumDuty s.cfg = ⟨1000, 1000, 1000, 1000⟩) ∧
      t.run = ⟨true, true, true, true⟩ ∧ t.shieldEn = false ∧
      t.line = ⟨s.cfg.resetLines.data, false, s.cfg.resetLines.latch, true⟩ ∧
      t.mode = .stopped ∧ t.fault = .noFault ∧ t.busy = false ∧ t.pend = [] ∧ t.ready = true ∧ t.sr = s.sr ∧
      (s.cfg.resetLines.latch = false ∨ s.line.latch = true → t.out = s.out) ∧
      (s.cfg.resetLines.latch = true → s.line.latch = false → t.out = s.sr) ∧
      t.trace = s.trace ++ resetTrace s.cfg

/-- F_CONFIG (R144): `rst` with CFG_VALID false halts the block in F_CONFIG and emits no event; nothing is said of LINE, DUTY,
DUR and RUN, which are unspecified. That SR and OUT keep their values is the model's reading (assumption log 7): R163 says
that reset does not touch them, and the model takes the unspecified lines to give the receiver no edge. -/
def Obligations.InvalidHandleHaltsAtReset : Prop :=
  ∀ (s : State) (p : PortInput) (rest : List PortInput),
    s.port = p :: rest → p.rst = true → s.cfg.cfgValid = false →
      ∃ t, step s = .next t ∧ t.fault = .fConfig ∧ t.ready = false ∧ t.busy = false ∧ t.pend = [] ∧ t.trace = s.trace ∧
        t.halted = true ∧ t.sr = s.sr ∧ t.out = s.out

/-- State.reset holds what R161 lists (it is the state after the reset sequence: assumption log 1; RESET_LINES and the clamp
constants at the spec's defaults: assumption log 3). -/
def Obligations.ResetStateIsAsListed : Prop :=
  State.reset.duty = ⟨1000, 1000, 1000, 1000⟩ ∧ State.reset.dur = ⟨1000, 1000, 1000, 1000⟩ ∧
  State.reset.run = ⟨true, true, true, true⟩ ∧ State.reset.shieldEn = false ∧
  State.reset.line = ⟨false, false, false, true⟩ ∧ State.reset.mode = .stopped ∧ State.reset.fault = .noFault ∧
  State.reset.busy = false ∧ State.reset.pend = [] ∧ State.reset.ready = true ∧ State.reset.faultOut = 0#2

/-! ## Invariants over every step -/

/-- Every step keeps the machine's invariant: R36, which the spec marks as derived, with R23, R29, R143 and R144. The
registers hold numbers of their width, and legal duties wherever those fit. -/
def Obligations.EveryStepKeepsTheInvariant : Prop := ∀ s t : State, s.Inv → step s = .next t → t.Inv

/-- State.reset meets the invariant and the serial one. -/
def Obligations.ResetMeetsTheInvariants : Prop := State.reset.Inv ∧ State.reset.SerialSafe

/-- The receiver's OUT never takes a partly shifted value (R122, R169): each step keeps the serial invariant, and leaves OUT
as it was or makes it a whole mask of a command, also where F_BUSY or `rst` cuts a transfer short. RESET_LINES.LATCH is 0,
its default (assumption log 11). The spec marks R169 as derived. -/
def Obligations.OutOnlyEverHoldsWholeMasks : Prop :=
  ∀ s t : State, s.Inv → s.SerialSafe → s.cfg.resetLines.latch = false → step s = .next t →
    t.SerialSafe ∧ (t.out = s.out ∨ t.out ∈ sentMasks s.cfg)

/-- No step changes the configuration (R37). -/
def Obligations.EveryStepKeepsTheConfiguration : Prop := ∀ s t : State, step s = .next t → t.cfg = s.cfg

/-- A started PWM channel stays started (R33: no command stops a channel). -/
def Obligations.StartedChannelsStayStarted : Prop :=
  ∀ (s t : State) (ch : Channel), s.cfg.cfgValid = true → s.run.get ch = true → step s = .next t → t.run.get ch = true

/-- Every accepted command, and reset, completes within 39 micro-steps (R173, which the spec marks as derived). -/
def Obligations.BusyBlockIsReadyWithin39Steps : Prop :=
  ∀ s : State, s.Inv → s.fault = .noFault → s.port = [] →
    ∃ n t, n ≤ 39 ∧ runSteps n s = .next t ∧ t.Ready ∧ t.pend = []
end

