-- ==== Sys2Proof/Laws/DutyMapper.lean ====
section
/-! SUPPORT. What a duty register can hold, said once. -/

namespace Sys2Proof.Machine

/-- Everything a duty register can hold of a value written to it: the value, or some number of its width. -/
theorem holdDuty_cases (w : Nat) (v : Int) :
    (0 ≤ v ∧ v.toNat < 2 ^ w ∧ holdDuty w v = v.toNat) ∨
    (¬ (0 ≤ v ∧ v.toNat < 2 ^ w) ∧ holdDuty w v = Config.unheldDuty w v % 2 ^ w) := by
  by_cases h : 0 ≤ v ∧ v.toNat < 2 ^ w
  · exact .inl ⟨h.1, h.2, if_pos h⟩
  · exact .inr ⟨h, if_neg h⟩

/-- Whatever is written to it, a duty register holds a number of its width (R23). -/
theorem holdDuty_lt (w : Nat) (v : Int) : holdDuty w v < 2 ^ w := by
  obtain ⟨-, h, e⟩ | ⟨-, e⟩ := holdDuty_cases w v
  · rwa [e]
  · rw [e]; exact Nat.mod_lt _ (Nat.two_pow_pos w)

/-- A value that the register can hold is held exactly. -/
theorem holdDuty_cast {w : Nat} {v : Int} (h0 : 0 ≤ v) (h1 : v.toNat < 2 ^ w) : (holdDuty w v : Int) = v := by
  rw [holdDuty, if_pos ⟨h0, h1⟩]; exact Int.toNat_of_nonneg h0

/-- Every duty of a command or of reset is a number of the register's width (R23). -/
theorem dutyOf_lt (c : Config) (s : Int) : dutyOf c s < 2 ^ c.dutyW := holdDuty_lt _ _

/-- The hardware form, too, gives a number of the register's width (R23, R104). -/
theorem clampAndMapHw_lt (c : Config) (w : Nat) (s : BitVec w) : clampAndMapHw c w s < 2 ^ c.dutyW := holdDuty_lt _ _

end Sys2Proof.Machine
end

