-- ==== Sys2Proof/Laws/State.lean ====
section
/-! SUPPORT. One lemma per field per update, true by rfl, so that no proof unfolds a record update. -/

namespace Sys2Proof.Machine

@[simp] theorem State.finish_cfg (s : State) : (s.finish).cfg = s.cfg := rfl
@[simp] theorem State.finish_duty (s : State) : (s.finish).duty = s.duty := rfl
@[simp] theorem State.finish_shieldEn (s : State) : (s.finish).shieldEn = s.shieldEn := rfl
@[simp] theorem State.finish_line (s : State) : (s.finish).line = s.line := rfl
@[simp] theorem State.finish_mode (s : State) :
    (s.finish).mode = s.post.getD s.mode := rfl
@[simp] theorem State.finish_fault (s : State) : (s.finish).fault = s.fault := rfl
@[simp] theorem State.finish_busy (s : State) :
    (s.finish).busy = false := rfl
@[simp] theorem State.finish_pend (s : State) : (s.finish).pend = s.pend := rfl
@[simp] theorem State.finish_post (s : State) :
    (s.finish).post = none := rfl
@[simp] theorem State.finish_work (s : State) : (s.finish).work = s.work := rfl
@[simp] theorem State.finish_bitcnt (s : State) : (s.finish).bitcnt = s.bitcnt := rfl
@[simp] theorem State.finish_sr (s : State) : (s.finish).sr = s.sr := rfl
@[simp] theorem State.finish_out (s : State) : (s.finish).out = s.out := rfl
@[simp] theorem State.finish_dur (s : State) : (s.finish).dur = s.dur := rfl
@[simp] theorem State.finish_run (s : State) : (s.finish).run = s.run := rfl
@[simp] theorem State.finish_port (s : State) : (s.finish).port = s.port := rfl
@[simp] theorem State.finish_trace (s : State) : (s.finish).trace = s.trace := rfl
@[simp] theorem State.finish_draws (s : State) : (s.finish).draws = s.draws := rfl

@[simp] theorem State.raise_cfg (s : State) (f : FaultCode) : (s.raise f).cfg = s.cfg := rfl
@[simp] theorem State.raise_duty (s : State) (f : FaultCode) : (s.raise f).duty = s.duty := rfl
@[simp] theorem State.raise_shieldEn (s : State) (f : FaultCode) : (s.raise f).shieldEn = s.shieldEn := rfl
@[simp] theorem State.raise_line (s : State) (f : FaultCode) : (s.raise f).line = s.line := rfl
@[simp] theorem State.raise_mode (s : State) (f : FaultCode) : (s.raise f).mode = s.mode := rfl
@[simp] theorem State.raise_fault (s : State) (f : FaultCode) :
    (s.raise f).fault = f := rfl
@[simp] theorem State.raise_busy (s : State) (f : FaultCode) :
    (s.raise f).busy = false := rfl
@[simp] theorem State.raise_pend (s : State) (f : FaultCode) :
    (s.raise f).pend = [] := rfl
@[simp] theorem State.raise_post (s : State) (f : FaultCode) :
    (s.raise f).post = none := rfl
@[simp] theorem State.raise_work (s : State) (f : FaultCode) : (s.raise f).work = s.work := rfl
@[simp] theorem State.raise_bitcnt (s : State) (f : FaultCode) : (s.raise f).bitcnt = s.bitcnt := rfl
@[simp] theorem State.raise_sr (s : State) (f : FaultCode) : (s.raise f).sr = s.sr := rfl
@[simp] theorem State.raise_out (s : State) (f : FaultCode) : (s.raise f).out = s.out := rfl
@[simp] theorem State.raise_dur (s : State) (f : FaultCode) : (s.raise f).dur = s.dur := rfl
@[simp] theorem State.raise_run (s : State) (f : FaultCode) : (s.raise f).run = s.run := rfl
@[simp] theorem State.raise_port (s : State) (f : FaultCode) : (s.raise f).port = s.port := rfl
@[simp] theorem State.raise_trace (s : State) (f : FaultCode) : (s.raise f).trace = s.trace := rfl
@[simp] theorem State.raise_draws (s : State) (f : FaultCode) : (s.raise f).draws = s.draws := rfl

@[simp] theorem State.accept_cfg (s : State) (c : Command) : (s.accept c).cfg = s.cfg := rfl
@[simp] theorem State.accept_duty (s : State) (c : Command) : (s.accept c).duty = s.duty := rfl
@[simp] theorem State.accept_shieldEn (s : State) (c : Command) : (s.accept c).shieldEn = s.shieldEn := rfl
@[simp] theorem State.accept_line (s : State) (c : Command) : (s.accept c).line = s.line := rfl
@[simp] theorem State.accept_mode (s : State) (c : Command) : (s.accept c).mode = s.mode := rfl
@[simp] theorem State.accept_fault (s : State) (c : Command) : (s.accept c).fault = s.fault := rfl
@[simp] theorem State.accept_busy (s : State) (c : Command) :
    (s.accept c).busy = true := rfl
@[simp] theorem State.accept_pend (s : State) (c : Command) :
    (s.accept c).pend = c.trace := rfl
@[simp] theorem State.accept_post (s : State) (c : Command) :
    (s.accept c).post = c.post := rfl
@[simp] theorem State.accept_work (s : State) (c : Command) :
    (s.accept c).work = c.load.getD s.work := rfl
@[simp] theorem State.accept_bitcnt (s : State) (c : Command) :
    (s.accept c).bitcnt = (match c.load with | some _ => 0#4 | none => s.bitcnt) := rfl
@[simp] theorem State.accept_sr (s : State) (c : Command) : (s.accept c).sr = s.sr := rfl
@[simp] theorem State.accept_out (s : State) (c : Command) : (s.accept c).out = s.out := rfl
@[simp] theorem State.accept_dur (s : State) (c : Command) : (s.accept c).dur = s.dur := rfl
@[simp] theorem State.accept_run (s : State) (c : Command) : (s.accept c).run = s.run := rfl
@[simp] theorem State.accept_port (s : State) (c : Command) : (s.accept c).port = s.port := rfl
@[simp] theorem State.accept_trace (s : State) (c : Command) : (s.accept c).trace = s.trace := rfl
@[simp] theorem State.accept_draws (s : State) (c : Command) : (s.accept c).draws = s.draws := rfl

@[simp] theorem State.withPend_cfg (s : State) (es : List Event) : (s.withPend es).cfg = s.cfg := rfl
@[simp] theorem State.withPend_duty (s : State) (es : List Event) : (s.withPend es).duty = s.duty := rfl
@[simp] theorem State.withPend_shieldEn (s : State) (es : List Event) : (s.withPend es).shieldEn = s.shieldEn := rfl
@[simp] theorem State.withPend_line (s : State) (es : List Event) : (s.withPend es).line = s.line := rfl
@[simp] theorem State.withPend_mode (s : State) (es : List Event) : (s.withPend es).mode = s.mode := rfl
@[simp] theorem State.withPend_fault (s : State) (es : List Event) : (s.withPend es).fault = s.fault := rfl
@[simp] theorem State.withPend_busy (s : State) (es : List Event) : (s.withPend es).busy = s.busy := rfl
@[simp] theorem State.withPend_pend (s : State) (es : List Event) : (s.withPend es).pend = es := rfl
@[simp] theorem State.withPend_post (s : State) (es : List Event) : (s.withPend es).post = s.post := rfl
@[simp] theorem State.withPend_work (s : State) (es : List Event) : (s.withPend es).work = s.work := rfl
@[simp] theorem State.withPend_bitcnt (s : State) (es : List Event) : (s.withPend es).bitcnt = s.bitcnt := rfl
@[simp] theorem State.withPend_sr (s : State) (es : List Event) : (s.withPend es).sr = s.sr := rfl
@[simp] theorem State.withPend_out (s : State) (es : List Event) : (s.withPend es).out = s.out := rfl
@[simp] theorem State.withPend_dur (s : State) (es : List Event) : (s.withPend es).dur = s.dur := rfl
@[simp] theorem State.withPend_run (s : State) (es : List Event) : (s.withPend es).run = s.run := rfl
@[simp] theorem State.withPend_port (s : State) (es : List Event) : (s.withPend es).port = s.port := rfl
@[simp] theorem State.withPend_trace (s : State) (es : List Event) : (s.withPend es).trace = s.trace := rfl
@[simp] theorem State.withPend_draws (s : State) (es : List Event) : (s.withPend es).draws = s.draws := rfl

@[simp] theorem State.withPort_cfg (s : State) (ps : List PortInput) : (s.withPort ps).cfg = s.cfg := rfl
@[simp] theorem State.withPort_duty (s : State) (ps : List PortInput) : (s.withPort ps).duty = s.duty := rfl
@[simp] theorem State.withPort_shieldEn (s : State) (ps : List PortInput) : (s.withPort ps).shieldEn = s.shieldEn := rfl
@[simp] theorem State.withPort_line (s : State) (ps : List PortInput) : (s.withPort ps).line = s.line := rfl
@[simp] theorem State.withPort_mode (s : State) (ps : List PortInput) : (s.withPort ps).mode = s.mode := rfl
@[simp] theorem State.withPort_fault (s : State) (ps : List PortInput) : (s.withPort ps).fault = s.fault := rfl
@[simp] theorem State.withPort_busy (s : State) (ps : List PortInput) : (s.withPort ps).busy = s.busy := rfl
@[simp] theorem State.withPort_pend (s : State) (ps : List PortInput) : (s.withPort ps).pend = s.pend := rfl
@[simp] theorem State.withPort_post (s : State) (ps : List PortInput) : (s.withPort ps).post = s.post := rfl
@[simp] theorem State.withPort_work (s : State) (ps : List PortInput) : (s.withPort ps).work = s.work := rfl
@[simp] theorem State.withPort_bitcnt (s : State) (ps : List PortInput) : (s.withPort ps).bitcnt = s.bitcnt := rfl
@[simp] theorem State.withPort_sr (s : State) (ps : List PortInput) : (s.withPort ps).sr = s.sr := rfl
@[simp] theorem State.withPort_out (s : State) (ps : List PortInput) : (s.withPort ps).out = s.out := rfl
@[simp] theorem State.withPort_dur (s : State) (ps : List PortInput) : (s.withPort ps).dur = s.dur := rfl
@[simp] theorem State.withPort_run (s : State) (ps : List PortInput) : (s.withPort ps).run = s.run := rfl
@[simp] theorem State.withPort_port (s : State) (ps : List PortInput) : (s.withPort ps).port = ps := rfl
@[simp] theorem State.withPort_trace (s : State) (ps : List PortInput) : (s.withPort ps).trace = s.trace := rfl
@[simp] theorem State.withPort_draws (s : State) (ps : List PortInput) : (s.withPort ps).draws = s.draws := rfl

@[simp] theorem State.withPend_withPend (s : State) (es fs : List Event) : (s.withPend es).withPend fs = s.withPend fs := rfl

@[simp] theorem State.withPort_withPort (s : State) (ps qs : List PortInput) : (s.withPort ps).withPort qs = s.withPort qs := rfl

@[simp] theorem State.withPend_self (s : State) : s.withPend s.pend = s := rfl

@[simp] theorem State.withPort_self (s : State) : s.withPort s.port = s := rfl

@[simp] theorem State.unconfigure_cfg (s : State) :
    s.unconfigure.cfg = s.cfg := rfl
@[simp] theorem State.unconfigure_duty (s : State) :
    s.unconfigure.duty = PerChannel.ofFn (fun ch => Config.freeDuty s.draws ch % 2 ^ s.cfg.dutyW) := rfl
@[simp] theorem State.unconfigure_shieldEn (s : State) :
    s.unconfigure.shieldEn = s.shieldEn := rfl
@[simp] theorem State.unconfigure_line (s : State) :
    s.unconfigure.line = ⟨Config.freeLine s.draws .data, Config.freeLine s.draws .clk, Config.freeLine s.draws .latch, Config.freeLine s.draws .enN⟩ := rfl
@[simp] theorem State.unconfigure_mode (s : State) :
    s.unconfigure.mode = s.mode := rfl
@[simp] theorem State.unconfigure_fault (s : State) :
    s.unconfigure.fault = s.fault := rfl
@[simp] theorem State.unconfigure_busy (s : State) :
    s.unconfigure.busy = s.busy := rfl
@[simp] theorem State.unconfigure_pend (s : State) :
    s.unconfigure.pend = s.pend := rfl
@[simp] theorem State.unconfigure_post (s : State) :
    s.unconfigure.post = s.post := rfl
@[simp] theorem State.unconfigure_work (s : State) :
    s.unconfigure.work = s.work := rfl
@[simp] theorem State.unconfigure_bitcnt (s : State) :
    s.unconfigure.bitcnt = s.bitcnt := rfl
@[simp] theorem State.unconfigure_sr (s : State) :
    s.unconfigure.sr = s.sr := rfl
@[simp] theorem State.unconfigure_out (s : State) :
    s.unconfigure.out = s.out := rfl
@[simp] theorem State.unconfigure_dur (s : State) :
    s.unconfigure.dur = PerChannel.ofFn (fun ch => Config.freeDur s.draws ch % 2 ^ s.cfg.dutyW) := rfl
@[simp] theorem State.unconfigure_run (s : State) :
    s.unconfigure.run = PerChannel.ofFn (Config.freeRun s.draws) := rfl
@[simp] theorem State.unconfigure_port (s : State) :
    s.unconfigure.port = s.port := rfl
@[simp] theorem State.unconfigure_trace (s : State) :
    s.unconfigure.trace = s.trace := rfl
@[simp] theorem State.unconfigure_draws (s : State) :
    s.unconfigure.draws = s.draws + 1 := rfl

/-! Fields that no event writes, and the trace, which every event extends. -/

@[simp] theorem State.effect_cfg (s : State) (e : Event) : (s.effect e).cfg = s.cfg := by
  cases e with
  | pin p b => cases p <;> rfl
  | _ => rfl
@[simp] theorem State.effect_mode (s : State) (e : Event) : (s.effect e).mode = s.mode := by
  cases e with
  | pin p b => cases p <;> rfl
  | _ => rfl
@[simp] theorem State.effect_fault (s : State) (e : Event) : (s.effect e).fault = s.fault := by
  cases e with
  | pin p b => cases p <;> rfl
  | _ => rfl
@[simp] theorem State.effect_busy (s : State) (e : Event) : (s.effect e).busy = s.busy := by
  cases e with
  | pin p b => cases p <;> rfl
  | _ => rfl
@[simp] theorem State.effect_pend (s : State) (e : Event) : (s.effect e).pend = s.pend := by
  cases e with
  | pin p b => cases p <;> rfl
  | _ => rfl
@[simp] theorem State.effect_post (s : State) (e : Event) : (s.effect e).post = s.post := by
  cases e with
  | pin p b => cases p <;> rfl
  | _ => rfl
@[simp] theorem State.effect_port (s : State) (e : Event) : (s.effect e).port = s.port := by
  cases e with
  | pin p b => cases p <;> rfl
  | _ => rfl
@[simp] theorem State.effect_draws (s : State) (e : Event) : (s.effect e).draws = s.draws := by
  cases e with
  | pin p b => cases p <;> rfl
  | _ => rfl
@[simp] theorem State.effect_trace (s : State) (e : Event) : (s.effect e).trace = s.trace := by
  cases e with
  | pin p b => cases p <;> rfl
  | _ => rfl

@[simp] theorem State.apply_cfg (s : State) (e : Event) : (s.apply e).cfg = s.cfg := s.effect_cfg e
@[simp] theorem State.apply_mode (s : State) (e : Event) : (s.apply e).mode = s.mode := s.effect_mode e
@[simp] theorem State.apply_fault (s : State) (e : Event) : (s.apply e).fault = s.fault := s.effect_fault e
@[simp] theorem State.apply_busy (s : State) (e : Event) : (s.apply e).busy = s.busy := s.effect_busy e
@[simp] theorem State.apply_pend (s : State) (e : Event) : (s.apply e).pend = s.pend := s.effect_pend e
@[simp] theorem State.apply_post (s : State) (e : Event) : (s.apply e).post = s.post := s.effect_post e
@[simp] theorem State.apply_port (s : State) (e : Event) : (s.apply e).port = s.port := s.effect_port e
@[simp] theorem State.apply_draws (s : State) (e : Event) : (s.apply e).draws = s.draws := s.effect_draws e
@[simp] theorem State.apply_trace (s : State) (e : Event) : (s.apply e).trace = s.trace ++ [e] := rfl
theorem State.apply_duty (s : State) (e : Event) : (s.apply e).duty = (s.effect e).duty := rfl
theorem State.apply_dur (s : State) (e : Event) : (s.apply e).dur = (s.effect e).dur := rfl
theorem State.apply_run (s : State) (e : Event) : (s.apply e).run = (s.effect e).run := rfl
theorem State.apply_line (s : State) (e : Event) : (s.apply e).line = (s.effect e).line := rfl
theorem State.apply_shieldEn (s : State) (e : Event) : (s.apply e).shieldEn = (s.effect e).shieldEn := rfl
theorem State.apply_sr (s : State) (e : Event) : (s.apply e).sr = (s.effect e).sr := rfl
theorem State.apply_out (s : State) (e : Event) : (s.apply e).out = (s.effect e).out := rfl
theorem State.apply_work (s : State) (e : Event) : (s.apply e).work = (s.effect e).work := rfl
theorem State.apply_bitcnt (s : State) (e : Event) : (s.apply e).bitcnt = (s.effect e).bitcnt := rfl

/-! Four-channel records: read after write, and writing all four channels. -/

@[simp] theorem PerChannel.get_set {α : Type} (p : PerChannel α) (ch ch' : Channel) (v : α) :
    (p.set ch v).get ch' = if ch' = ch then v else p.get ch' := by
  cases ch <;> cases ch' <;> rfl

@[simp] theorem PerChannel.get_ofFn {α : Type} (f : Channel → α) (ch : Channel) : (PerChannel.ofFn f).get ch = f ch := by
  cases ch <;> rfl

@[simp] theorem PerChannel.minimumDuty_get (c : Config) (ch : Channel) : (PerChannel.minimumDuty c).get ch = dutyOf c 0 := by
  cases ch <;> rfl

@[simp] theorem PerChannel.ofFn_minimum (c : Config) : PerChannel.ofFn (fun _ => dutyOf c 0) = PerChannel.minimumDuty c := rfl

theorem PerChannel.ext_get {α : Type} {p q : PerChannel α} (h : ∀ ch, p.get ch = q.get ch) : p = q := by
  have h1 := h .m1
  have h2 := h .m2
  have h3 := h .m3
  have h4 := h .m4
  cases p
  cases q
  simp_all [PerChannel.get]

theorem PerChannel.set_all {α : Type} (p : PerChannel α) (f : Channel → α) :
    (((p.set .m1 (f .m1)).set .m2 (f .m2)).set .m3 (f .m3)).set .m4 (f .m4) = PerChannel.ofFn f := rfl

end Sys2Proof.Machine
end

