-- ==== Sys2Proof/Laws/Ops.lean ====
section
/-! SUPPORT. For each shared operation, what it can do, said once: the micro-step, draining PEND, the gate, a command's
performance, reset, and one step. -/

namespace Sys2Proof.Machine

/-! Lists of events. -/

@[simp] theorem State.applyAll_nil (s : State) : s.applyAll [] = s := rfl

@[simp] theorem State.applyAll_cons (s : State) (e : Event) (es : List Event) :
    s.applyAll (e :: es) = (s.apply e).applyAll es := rfl

theorem State.applyAll_append (s : State) (es fs : List Event) :
    s.applyAll (es ++ fs) = (s.applyAll es).applyAll fs := List.foldl_append

@[simp] theorem State.applyAll_trace (s : State) (es : List Event) : (s.applyAll es).trace = s.trace ++ es := by
  induction es generalizing s with
  | nil => simp
  | cons e es ih => simp [ih]

/-- What no event writes, no list of events writes. -/
theorem State.applyAll_keeps (s : State) (es : List Event) :
    (s.applyAll es).cfg = s.cfg ∧ (s.applyAll es).mode = s.mode ∧ (s.applyAll es).fault = s.fault ∧
      (s.applyAll es).busy = s.busy ∧ (s.applyAll es).pend = s.pend ∧ (s.applyAll es).post = s.post ∧
      (s.applyAll es).port = s.port ∧ (s.applyAll es).draws = s.draws := by
  induction es generalizing s with
  | nil => simp
  | cons e es ih => simpa using ih (s.apply e)

@[simp] theorem State.applyAll_cfg (s : State) (es : List Event) : (s.applyAll es).cfg = s.cfg :=
  (s.applyAll_keeps es).1

@[simp] theorem State.applyAll_mode (s : State) (es : List Event) : (s.applyAll es).mode = s.mode :=
  (s.applyAll_keeps es).2.1

@[simp] theorem State.applyAll_fault (s : State) (es : List Event) : (s.applyAll es).fault = s.fault :=
  (s.applyAll_keeps es).2.2.1

@[simp] theorem State.applyAll_busy (s : State) (es : List Event) : (s.applyAll es).busy = s.busy :=
  (s.applyAll_keeps es).2.2.2.1

@[simp] theorem State.applyAll_pend (s : State) (es : List Event) : (s.applyAll es).pend = s.pend :=
  (s.applyAll_keeps es).2.2.2.2.1

@[simp] theorem State.applyAll_post (s : State) (es : List Event) : (s.applyAll es).post = s.post :=
  (s.applyAll_keeps es).2.2.2.2.2.1

@[simp] theorem State.applyAll_port (s : State) (es : List Event) : (s.applyAll es).port = s.port :=
  (s.applyAll_keeps es).2.2.2.2.2.2.1

@[simp] theorem State.applyAll_draws (s : State) (es : List Event) : (s.applyAll es).draws = s.draws :=
  (s.applyAll_keeps es).2.2.2.2.2.2.2

/-- An event does not read PEND. -/
theorem State.apply_withPend (s : State) (e : Event) (p : List Event) :
    (s.withPend p).apply e = (s.apply e).withPend p := by
  cases e with
  | pin q b => cases q <;> rfl
  | _ => rfl

theorem State.applyAll_withPend (s : State) (es : List Event) (p : List Event) :
    (s.withPend p).applyAll es = (s.applyAll es).withPend p := by
  induction es generalizing s with
  | nil => rfl
  | cons e es ih => rw [applyAll_cons, apply_withPend, ih, applyAll_cons]

/-! Micro-steps and draining. -/

theorem State.microStep_of_pend_nil {s : State} (h : s.pend = []) : s.microStep = s := by
  simp [microStep, h]

theorem State.microSteps_of_pend_nil {s : State} (h : s.pend = []) (n : Nat) : s.microSteps n = s := by
  induction n with
  | zero => rfl
  | succ n ih => rw [microSteps, microStep_of_pend_nil h, ih]

theorem State.microSteps_succ' (s : State) (n : Nat) : s.microSteps (n + 1) = (s.microSteps n).microStep := by
  induction n generalizing s with
  | zero => rfl
  | succ n ih => rw [microSteps, ih, microSteps]

/-- Everything a micro-step can do: nothing, or the head of PEND, or the last of PEND and the command's end. -/
theorem State.microStep_cases (s : State) :
    (s.pend = [] ∧ s.microStep = s) ∨
    (∃ e, s.pend = [e] ∧ s.microStep = ((s.apply e).withPend []).finish) ∨
    (∃ e rest, s.pend = e :: rest ∧ rest ≠ [] ∧ s.microStep = (s.apply e).withPend rest) := by
  match h : s.pend with
  | [] => exact .inl ⟨rfl, microStep_of_pend_nil h⟩
  | [e] => exact .inr (.inl ⟨e, rfl, by simp only [microStep, h]; rw [apply_withPend]⟩)
  | e :: e' :: rest =>
    exact .inr (.inr ⟨e, e' :: rest, rfl, by simp, by simp only [microStep, h]; rw [apply_withPend]⟩)

/-- Fewer micro-steps than PEND is long apply that many events, in order, and nothing else (R46). -/
theorem State.microSteps_partial (n : Nat) (s : State) (h : n < s.pend.length) :
    s.microSteps n = (s.applyAll (s.pend.take n)).withPend (s.pend.drop n) := by
  induction n generalizing s with
  | zero => simp [microSteps]
  | succ n ih =>
    obtain ⟨hp, -⟩ | ⟨e, hp, -⟩ | ⟨e, rest, hp, -, hs⟩ := s.microStep_cases
    · simp [hp] at h
    · simp [hp] at h
    · have h' : n < rest.length := by simpa [hp] using h
      rw [microSteps, hs, ih _ h']
      simp [hp, applyAll_withPend]

/-- Draining applies all of PEND in order, then finishes (the macro model of R46). -/
theorem State.drain_eq (s : State) (h : s.pend ≠ []) :
    s.drain = ((s.applyAll s.pend).withPend []).finish := by
  obtain ⟨n, hn⟩ : ∃ n, s.pend.length = n + 1 := ⟨s.pend.length - 1, by
    have := List.length_pos_iff.mpr h; omega⟩
  rw [drain, hn, microSteps_succ', microSteps_partial n s (by omega)]
  have hd : (s.pend.drop n).length = 1 := by simp [hn]
  obtain ⟨e, he⟩ := List.length_eq_one_iff.mp hd
  have hs : s.pend = s.pend.take n ++ [e] := by rw [← he, List.take_append_drop]
  rw [he, show ((s.applyAll (s.pend.take n)).withPend [e]).microStep =
    (((s.applyAll (s.pend.take n)).withPend []).apply e).finish from rfl, apply_withPend]
  conv_rhs => rw [hs, applyAll_append]
  rfl

theorem State.drain_of_pend_nil {s : State} (h : s.pend = []) : s.drain = s := microSteps_of_pend_nil h _

/-- After as many micro-steps as PEND is long, nothing changes any more. -/
theorem State.microSteps_past (s : State) (n : Nat) (h : s.pend.length ≤ n) : s.microSteps n = s.drain := by
  obtain ⟨k, rfl⟩ := Nat.exists_eq_add_of_le h
  have hp : s.drain.pend = [] := by
    by_cases he : s.pend = []
    · rw [drain_of_pend_nil he, he]
    · simp [drain_eq s he]
  clear h
  induction k with
  | zero => rfl
  | succ k ih => rw [← Nat.add_assoc, microSteps_succ', ih, microStep_of_pend_nil hp]

/-! Accepting, gating and performing a command. -/

/-- What performing a command leaves: its events applied in order to the accepted state, then MODE and BUSY (R46). -/
theorem State.accept_drain (s : State) (c : Command) (h : c.trace ≠ []) :
    (s.accept c).drain = (((s.accept c).applyAll c.trace).withPend []).finish := by
  rw [drain_eq _ (by simpa using h), accept_pend]

/-- Everything the gate can do (R86, R147). -/
theorem State.gate_cases (s : State) (body : Outcome) :
    (s.fault ≠ .noFault ∧ s.gate body = .next s) ∨
    (s.fault = .noFault ∧ s.busy = true ∧ s.gate body = .next (s.raise .fBusy)) ∨
    (s.fault = .noFault ∧ s.busy = false ∧ s.gate body = body) := by
  by_cases hf : s.fault = .noFault
  · cases hb : s.busy <;> simp [gate, halted, hf, hb]
  · simp [gate, halted, hf]

/-- Gating twice is gating once. -/
theorem State.gate_gate (s : State) (body : Outcome) : s.gate (s.gate body) = s.gate body := by
  obtain ⟨_, h⟩ | ⟨_, _, h⟩ | ⟨_, _, h⟩ := s.gate_cases body
  · rw [h]; obtain ⟨_, h'⟩ | ⟨_, _, h'⟩ | ⟨_, _, h'⟩ := s.gate_cases (.next s) <;> first | exact h' | simp_all
  · rw [h]; obtain ⟨_, h'⟩ | ⟨_, _, h'⟩ | ⟨_, _, h'⟩ := s.gate_cases (.next (s.raise .fBusy)) <;> first | exact h' | simp_all
  · rw [h, h]

/-- Every meaning is the performance of its command, so that a strobed word starts what a called word runs. -/
theorem exec_eq_perform (i : Instr) (s : State) : exec i s = s.perform (commandOf s.cfg i) := by
  cases i <;> rfl

/-- No command has an empty trace, so every accepted command reaches its end (R173). -/
theorem commandOf_trace_ne_nil (c : Config) (i : Instr) : (commandOf c i).trace ≠ [] := by
  cases i <;>
    simp [commandOf, setfwdCommand, setbwdCommand, settlCommand, settrCommand, stopCommand, shieldCommand, motion, dutyWrites]

/-- A command on a ready block (R46). -/
theorem exec_of_ready {s : State} (i : Instr) (hf : s.fault = .noFault) (hb : s.busy = false) :
    exec i s = .next (s.accept (commandOf s.cfg i)).drain := by
  rw [exec_eq_perform, State.perform]
  obtain ⟨h, -⟩ | ⟨-, h, -⟩ | ⟨-, -, h⟩ := s.gate_cases (.next (s.accept (commandOf s.cfg i)).drain)
  · exact absurd hf h
  · simp [hb] at h
  · exact h

/-! Reset and the step. -/

/-- Everything the start of reset can do (R144, R160). -/
theorem State.startReset_cases (s : State) :
    (s.cfg.cfgValid = true ∧ s.startReset =
      { s with fault := .noFault, busy := true, mode := .stopped, pend := resetTrace s.cfg, post := none }) ∨
    (s.cfg.cfgValid = false ∧ s.startReset = (s.raise .fConfig).unconfigure) := by
  cases h : s.cfg.cfgValid <;> simp [startReset, h]

/-- Everything a step without a presented word can do (R46, R143). -/
theorem State.advance_cases (s : State) :
    (s.fault ≠ .noFault ∧ s.advance = s) ∨ (s.fault = .noFault ∧ s.advance = s.microStep) := by
  by_cases hf : s.fault = .noFault <;> simp [advance, halted, hf]

/-- Everything the block can do with a word it takes (R46, R141). -/
theorem State.takeWord_cases (s : State) (cw : Nat) (waits : Bool) :
    (∃ e, decodeWord s.cfg.speedW cw = .error e ∧ s.takeWord cw waits = .next (s.raise .fIllegal)) ∨
    (∃ i, decodeWord s.cfg.speedW cw = .ok i ∧ waits = true ∧ s.takeWord cw waits = exec i s) ∨
    (∃ i, decodeWord s.cfg.speedW cw = .ok i ∧ waits = false ∧ s.takeWord cw waits = .next (s.accept (commandOf s.cfg i))) := by
  cases h : decodeWord s.cfg.speedW cw with
  | error e => exact .inl ⟨e, rfl, by simp [takeWord, h]⟩
  | ok i => cases waits <;> simp [takeWord, h]

/-- Everything one step can do: it takes CALLER's next move from the port, if there is one, and then one of six things
happens, in the priority of R147. -/
theorem step_cases (s : State) :
    ∃ u : State, (s.port = [] ∧ u = s ∨ ∃ p, s.port = p :: u.port ∧ u = s.withPort u.port) ∧
      (step s = .next u.startReset ∨
       step s = .next u.advance ∨
       (u.fault ≠ .noFault ∧ step s = .next u) ∨
       (u.fault = .noFault ∧ u.busy = true ∧ step s = .next (u.raise .fBusy)) ∨
       (u.fault = .noFault ∧ u.busy = false ∧ step s = .next (u.raise .fIllegal)) ∨
       (∃ i, u.fault = .noFault ∧ u.busy = false ∧
         (step s = .next (u.accept (commandOf u.cfg i)).drain ∨ step s = .next (u.accept (commandOf u.cfg i))))) := by
  cases hp : s.port with
  | nil => exact ⟨s, .inl ⟨rfl, rfl⟩, .inr (.inl (by simp [step, hp]))⟩
  | cons p rest =>
    refine ⟨s.withPort rest, .inr ⟨p, rfl, rfl⟩, ?_⟩
    have hstep : step s = (s.withPort rest).react p := by simp [step, hp]
    rw [hstep]
    generalize s.withPort rest = u
    cases hr : p.rst with
    | true => exact .inl (by simp [State.react, hr])
    | false =>
      cases hv : p.valid with
      | false => exact .inr (.inl (by simp [State.react, hr, hv]))
      | true =>
        have hre : u.react p = u.gate (u.takeWord p.cw p.waits) := by simp [State.react, hr, hv]
        rw [hre]
        obtain ⟨hf, h⟩ | ⟨hf, hb, h⟩ | ⟨hf, hb, h⟩ := u.gate_cases (u.takeWord p.cw p.waits)
        · exact .inr (.inr (.inl ⟨hf, h⟩))
        · exact .inr (.inr (.inr (.inl ⟨hf, hb, h⟩)))
        · rw [h]
          obtain ⟨e, -, ht⟩ | ⟨i, -, -, ht⟩ | ⟨i, -, -, ht⟩ := u.takeWord_cases p.cw p.waits
          · exact .inr (.inr (.inr (.inr (.inl ⟨hf, hb, ht⟩))))
          · exact .inr (.inr (.inr (.inr (.inr ⟨i, hf, hb, .inl (by rw [ht, exec_of_ready i hf hb])⟩))))
          · exact .inr (.inr (.inr (.inr (.inr ⟨i, hf, hb, .inr ht⟩))))

end Sys2Proof.Machine
end

