-- ==== Sys2Proof/Laws/PerInstr.lean ====
section
/-! SUPPORT. Facts about every command, one lemma per constructor of Instr. -/

namespace Sys2Proof.Laws

/-- The encoding of a command carries its opcode and zero reserved bits (30_encoding.md R57, R63). -/
def EncodeCarriesOpcode.Statement (i : Instr) : Prop :=
  (encode i).extractLsb' 68 4 = i.opcode ∧ (encode i).extractLsb' 65 3 = 0#3

theorem packWord_opcode (op : BitVec 4) (f : Bit) (a b : BitVec 32) :
    (packWord 32 op f a b).extractLsb' 68 4 = op ∧ (packWord 32 op f a b).extractLsb' 65 3 = 0#3 := by
  refine ⟨BitVec.eq_of_getLsbD_eq fun i hi => ?_, BitVec.eq_of_getLsbD_eq fun i hi => ?_⟩
  · simp only [packWord, packFields, BitVec.getLsbD_extractLsb', BitVec.getLsbD_cast, BitVec.getLsbD_append]
    simp only [show ¬ (68 + i < 32) by omega, show ¬ (68 + i - 32 < 32) by omega, show ¬ (68 + i - 32 - 32 < 1) by omega,
      show ¬ (68 + i - 32 - 32 - 1 < 3) by omega, show 68 + i - 32 - 32 - 1 - 3 = i by omega, hi, decide_true,
      Bool.true_and, if_false]
  · simp only [packWord, packFields, BitVec.getLsbD_extractLsb', BitVec.getLsbD_cast, BitVec.getLsbD_append]
    simp only [show ¬ (65 + i < 32) by omega, show ¬ (65 + i - 32 < 32) by omega, show ¬ (65 + i - 32 - 32 < 1) by omega,
      show 65 + i - 32 - 32 - 1 < 3 by omega, hi, decide_true, Bool.true_and, if_false, if_true, BitVec.getLsbD_zero]

theorem EncodeCarriesOpcode.setfwd (a b : Int) : EncodeCarriesOpcode.Statement (.setfwd a b) := packWord_opcode ..

theorem EncodeCarriesOpcode.setbwd (a b : Int) : EncodeCarriesOpcode.Statement (.setbwd a b) := packWord_opcode ..

theorem EncodeCarriesOpcode.settl (a : Int) : EncodeCarriesOpcode.Statement (.settl a) := packWord_opcode ..

theorem EncodeCarriesOpcode.settr (a : Int) : EncodeCarriesOpcode.Statement (.settr a) := packWord_opcode ..

theorem EncodeCarriesOpcode.stop : EncodeCarriesOpcode.Statement .stop := packWord_opcode ..

theorem EncodeCarriesOpcode.shield (f : Bit) : EncodeCarriesOpcode.Statement (.shield f) := packWord_opcode ..

end Sys2Proof.Laws
end

