-- ==== Sys2Proof/Laws/Serializer.lean ====
section
/-! SUPPORT. What a transfer does, said once: one bit, the remaining bits, and the whole of `transmit` from a state whose CLK
line is low. -/

namespace Sys2Proof.Machine

/-- `work & 0x80` tests bit 7 (R117). -/
theorem topBit_eq (w : Byte) : ((w &&& 0x80#8) != 0#8) = w.getLsbD 7 := by
  revert w; decide

/-- The state after one bit of a transfer: DATA holds the top bit, the receiver has shifted it in, and WORK has shifted. -/
def sendBit (s : State) (w : Byte) : State :=
  { s with
    line := { s.line with data := w.getLsbD 7 }
    sr := shiftIn s.sr (w.getLsbD 7)
    work := s.work <<< 1
    bitcnt := s.bitcnt + 1#4
    trace := s.trace ++ bitEvents w }

/-- The state after `n` bits of a transfer. -/
def sendBits : Nat → State → Byte → State
  | 0, s, _ => s
  | n + 1, s, w => sendBits n (sendBit s w) (w <<< 1)

theorem applyAll_bitEvents (s : State) (w : Byte) (h : s.line.clk = false) :
    s.applyAll (bitEvents w) = sendBit s w := by
  obtain ⟨cfg, duty, she, ⟨d, c, l, e⟩, mode, fault, busy, pend, post, work, bc, sr, out, dur, run, port, tr, dr⟩ := s
  subst h
  simp [sendBit, State.applyAll, bitEvents, State.apply, State.effect, State.drivePin, topBit_eq]

theorem applyAll_transmitBits (n : Nat) (s : State) (w : Byte) (h : s.line.clk = false) :
    s.applyAll (transmitBits n w) = sendBits n s w := by
  induction n generalizing s w with
  | zero => rfl
  | succ n ih => rw [transmitBits, State.applyAll_append, applyAll_bitEvents _ _ h, ih (sendBit s w) _ h, sendBits]

/-- Eight shifts from the top bit down rebuild the mask, whatever the receiver held. -/
theorem shiftIn_eight (x m : Byte) :
    shiftIn (shiftIn (shiftIn (shiftIn (shiftIn (shiftIn (shiftIn (shiftIn x (m.getLsbD 7))
      ((m <<< 1).getLsbD 7)) ((m <<< 2).getLsbD 7)) ((m <<< 3).getLsbD 7)) ((m <<< 4).getLsbD 7))
      ((m <<< 5).getLsbD 7)) ((m <<< 6).getLsbD 7)) ((m <<< 7).getLsbD 7) = m := by
  apply BitVec.eq_of_getLsbD_eq
  intro i hi
  interval_cases i <;> simp [shiftIn]

theorem sendBits_eight (s : State) (m : Byte) :
    sendBits 8 s m = { s with
      line := { s.line with data := m.getLsbD 0 }
      sr := m
      work := 0#8
      bitcnt := s.bitcnt + 8#4
      trace := s.trace ++ transmitBits 8 m } := by
  have h := shiftIn_eight s.sr m
  have hw : s.work <<< 8 = 0#8 := by simp
  simp only [sendBits, sendBit, transmitBits, ← BitVec.shiftLeft_add, Nat.reduceAdd, h, BitVec.add_assoc, hw,
    BitVec.reduceAdd, List.append_assoc, List.append_nil]
  simp

/-- The whole effect of a transfer that starts with CLK low. -/
theorem applyAll_transmit (s : State) (m : Byte) (h : s.line.clk = false) :
    s.applyAll (transmit m) = { s with
      line := ⟨m.getLsbD 0, false, true, s.line.enN⟩
      sr := m
      out := m
      work := 0#8
      bitcnt := s.bitcnt + 8#4
      trace := s.trace ++ transmit m } := by
  rw [transmit, State.applyAll_cons, State.applyAll_append, applyAll_transmitBits _ _ _ (by exact h), sendBits_eight]
  obtain ⟨cfg, duty, she, ⟨d, c, l, e⟩, mode, fault, busy, pend, post, work, bc, sr, out, dur, run, port, tr, dr⟩ := s
  subst h
  simp [State.apply, State.effect, State.drivePin]

/-- The four duty writes set every duty and every duration, and nothing else. -/
theorem applyAll_dutyWrites (s : State) (d : Channel → Duty) :
    s.applyAll (dutyWrites d) = { s with
      duty := PerChannel.ofFn d
      dur := PerChannel.ofFn d
      trace := s.trace ++ dutyWrites d } := by
  simp [State.applyAll, dutyWrites, Channel.all, State.apply, State.effect, PerChannel.set_all]

end Sys2Proof.Machine
end

