-- ==== Sys2Proof/Tests/Slice0.lean ====
section
/-! SUPPORT. The model's own tests. Expected values come from the spec: the tables and vectors of 95_test_vectors.md, the
examples of 30_encoding.md R65 and the command rules, or hand calculation from a rule named in the comment. -/

namespace Sys2Proof.Tests

open Sys2Proof.Machine

/-- The defaults of 95_test_vectors.md around a given bit table. -/
def cfgOf (p : BitPos) : Config := ⟨p, .m34, .none, 32, 16, 1000, 1000, ⟨false, false, false, rfl⟩, true, 3, 20000⟩

/-- The state Z of 95_test_vectors.md section 2.5, with SR0 = 0x00 and OUT0 = 0xA5 as in its section 3. -/
def z : State := State.resetWith (cfgOf .reference) 0x00#8 0xA5#8

/-- Z with STOP_TX = ZERO. -/
def zZero : State := State.resetWith { cfgOf .reference with stopTx := .zero } 0x00#8 0xA5#8

/-- The defaults of R7, around the identity layout. -/
def d : Config := cfgOf .identity

/-- Other values of the parameters of R7: 12-bit speeds (a 32-bit word), 11-bit duties, clamp at 500, offset 100. -/
def dNarrow : Config := { d with speedW := 12, dutyW := 11, speedMax := 500, dutyOffset := 100 }

/-- Clamp constants whose largest sum, 2047, is the largest number of 11 bits. -/
def dFull : Config := { d with dutyW := 11, speedMax := 1047, dutyOffset := 1000 }

/-- 10-bit duty registers, which hold 1000 but not 2000. -/
def dSmall : Config := { d with dutyW := 10 }

/-- Reset at the parameters of `dNarrow`. -/
def zNarrow : State := State.resetWith dNarrow 0x00#8 0xA5#8

/-- Z with CFG_VALID false. -/
def zInvalid : State := State.resetWith { cfgOf .reference with cfgValid := false } 0x00#8 0xA5#8

/-- One field of the next state, none where the outcome is not one. -/
def after {α : Type} (o : Outcome) (f : State → α) : Option α :=
  match o with
  | .next t => some (f t)
  | .fault _ => none
  | .refused _ => none

/-- Z one step after `SETFWD 600, 600` was strobed and ten of its events were applied (95_test_vectors.md section 2.6). -/
def midCommand : State := (z.accept (commandOf z.cfg (.setfwd 600 600))).microSteps 10

/-! WellFormed refuses an ill-formed term for each check (R56, R62). -/

theorem test_wf_setfwd_first : (Instr.setfwd 2147483648 0).wellFormed = false := by decide
theorem test_wf_setfwd_second : (Instr.setfwd 0 (-2147483649)).wellFormed = false := by decide
theorem test_wf_setbwd_first : (Instr.setbwd (-2147483649) 0).wellFormed = false := by decide
theorem test_wf_setbwd_second : (Instr.setbwd 0 2147483648).wellFormed = false := by decide
theorem test_wf_settl : (Instr.settl 2147483648).wellFormed = false := by decide
theorem test_wf_settr : (Instr.settr (-2147483649)).wellFormed = false := by decide
theorem test_wf_extremes : (Instr.setfwd (-2147483648) 2147483647).wellFormed = true := by decide

/-! Configurations the spec excludes cannot be built (R70, R168). -/

theorem test_bitpos_repeated : BitPos.ofPositions? 2 3 1 4 5 7 0 2 = none := by decide
theorem test_bitpos_reference : BitPos.ofPositions? 2 3 1 4 5 7 0 6 = some .reference := by decide
theorem test_reset_clk_high : ResetLines.ofLevels? false true false = none := by decide

/-! Words written out from R55 and R57: OP, RSV, F, then A and B. -/

theorem test_decode_setfwd : decode 0b000100000000000000000000000000100101100000000000000000000000001001011000#72
    = .ok (.setfwd 600 600) := by decide
theorem test_decode_setbwd : decode 0b001000000000000000000000000000000000000000000000000000000000001111101000#72
    = .ok (.setbwd 0 1000) := by decide
theorem test_decode_settl : decode 0b001100001000000000000000000000000000000000000000000000000000000000000000#72
    = .ok (.settl (-2147483648)) := by decide
theorem test_decode_settr : decode 0b010000000111111111111111111111111111111100000000000000000000000000000000#72
    = .ok (.settr 2147483647) := by decide
theorem test_decode_stop : decode 0b010100000000000000000000000000000000000000000000000000000000000000000000#72
    = .ok .stop := by decide
theorem test_decode_shield : decode 0b011000010000000000000000000000000000010100000000000000000000000000000111#72
    = .ok (.shield true) := by decide
theorem test_decode_negative : decode 0x10FFFFFFCE000007D0#72 = .ok (.setfwd (-50) 2000) := by decide
theorem test_decode_ignores_f : decode 0x110000025800000258#72 = .ok (.setfwd 600 600) := by decide
theorem test_decode_zero_word : decode 0#72 = .error .reservedOpcode := by decide
theorem test_decode_op7 : decode 0x700000000000000000#72 = .error .reservedOpcode := by decide
theorem test_decode_op15 : decode 0xF00000000000000000#72 = .error .reservedOpcode := by decide
theorem test_decode_rsv : decode 0x120000025800000258#72 = .error .reservedBits := by decide
theorem test_decode_table_word : decodeTableWord 72 0x610000000000000000 = some (.shield true) := by decide

theorem test_decode_narrow : decodeAt 12 0x10FFE258#32 = .ok (.setfwd (-2) 600) := by decide

/-! Encodings of R65. -/

theorem test_encode_setfwd : encode (.setfwd (-50) 2000) = 0x10FFFFFFCE000007D0#72 := by decide
theorem test_encode_setbwd : encode (.setbwd 0 1000) = 0x2000000000000003E8#72 := by decide
theorem test_encode_settl : encode (.settl 300) = 0x300000012C00000000#72 := by decide
theorem test_encode_settr : encode (.settr 1500) = 0x40000005DC00000000#72 := by decide
theorem test_encode_stop : encode .stop = 0x500000000000000000#72 := by decide
theorem test_encode_shield : encode (.shield true) = 0x610000000000000000#72 := by decide

/-! The assembler (R62, R65). -/

theorem test_assemble_pair :
    assembleWord 32 ['s', 'e', 't', 'F', 'W', 'D', ' ', '-', '5', '0', ',', ' ', '0', 'x', '7', 'd', '0', ' ', ';', 'x']
      = .ok 0x10FFFFFFCE000007D0#72 := by decide
theorem test_assemble_shield_on : assembleWord 32 ['S', 'H', 'I', 'E', 'L', 'D', ' ', 'O', 'N'] = .ok 0x610000000000000000#72 := by
  decide
theorem test_assemble_out_of_range :
    assemble 32 ['S', 'E', 'T', 'T', 'L', ' ', '2', '1', '4', '7', '4', '8', '3', '6', '4', '8'] = .error .outOfRange := by decide
theorem test_assemble_count : assemble 32 ['S', 'T', 'O', 'P', ' ', '1'] = .error .operandCount := by decide

/-! The duty mapper (R110). -/

theorem test_clamp_low : [-2147483648, -50, -1, 0].map (clampAndMap d) = [1000, 1000, 1000, 1000] := by decide
theorem test_clamp_linear : [1, 300, 500, 600, 999, 1000].map (clampAndMap d) = [1001, 1300, 1500, 1600, 1999, 2000] := by decide
theorem test_clamp_high : [1001, 1500, 2000, 2147483647].map (clampAndMap d) = [2000, 2000, 2000, 2000] := by decide
theorem test_clamp_hw : clampAndMapHw d 32 0xFFFFFFCE#32 = 1000 ∧ clampAndMapHw d 32 600#32 = 1600 := by decide

theorem test_clamp_narrow : [-2, 0, 499, 600].map (clampAndMap dNarrow) = [100, 100, 599, 600] := by decide
theorem test_duty_at_the_width : dutyOf dFull 5000 = 2047 ∧ dutyOf dSmall 0 = 1000 ∧ dutyOf dSmall 23 = 1023 := by decide

theorem test_clamp_hw_at_the_width : clampAndMapHw dSmall 32 23#32 = 1023 ∧ clampAndMapHw dFull 32 5000#32 = 2047 := by decide

/-! The masks of 95_test_vectors.md section 2.2, for both bit tables. -/

theorem test_masks_reference :
    [maskFwd, maskBwd, maskTl, maskTr].map (· .reference) = [0x39#8, 0xC6#8, 0xD8#8, 0x27#8] := by decide
theorem test_masks_identity :
    [maskFwd, maskBwd, maskTl, maskTr].map (· .identity) = [0x5A#8, 0xA5#8, 0xAA#8, 0x55#8] := by decide

/-! The serializer and the receiver (R129, with SR0 = 0xFF). -/

theorem test_transfer_after_three_bits :
    (({ z with sr := 0xFF#8 }).applyAll ((transmit 0x39#8).take 13)).sr = 0xF9#8 := by decide
theorem test_transfer_end :
    let t := ({ z with sr := 0xFF#8 }).applyAll (transmit 0x39#8)
    t.sr = 0x39#8 ∧ t.out = 0x39#8 ∧ t.line = ⟨true, false, true, true⟩ := by decide

/-! One command each (95_test_vectors.md section 2.5). -/

theorem test_setfwd :
    after (exec (.setfwd (-50) 2000) z) (fun t => (t.duty, t.line, t.out, t.mode))
      = some (⟨2000, 2000, 1000, 1000⟩, ⟨true, false, true, false⟩, 0x39#8, .forward) := by decide
theorem test_setfwd_identity :
    after (exec (.setfwd 1000 999) { z with cfg := { cfgOf .identity with leftGroup := .m12 } }) (fun t => (t.duty, t.out))
      = some (⟨2000, 2000, 1999, 1999⟩, 0x5A#8) := by decide
theorem test_setbwd :
    after (exec (.setbwd 0 1000) z) (fun t => (t.duty, t.line, t.out, t.mode))
      = some (⟨2000, 2000, 1000, 1000⟩, ⟨false, false, true, false⟩, 0xC6#8, .backward) := by decide
theorem test_settl :
    after (exec (.settl 300) z) (fun t => (t.duty, t.line, t.out, t.mode))
      = some (⟨1300, 1300, 1300, 1300⟩, ⟨false, false, true, false⟩, 0xD8#8, .turningLeft) := by decide
theorem test_settr :
    after (exec (.settr 1500) z) (fun t => (t.duty, t.line, t.out, t.mode))
      = some (⟨2000, 2000, 2000, 2000⟩, ⟨true, false, true, false⟩, 0x27#8, .turningRight) := by decide
theorem test_stop_none :
    after (exec .stop { z with shieldEn := true, line := ⟨true, false, true, false⟩, mode := .forward, out := 0x39#8 })
        (fun t => (t.shieldEn, t.line, t.out, t.mode))
      = some (false, ⟨true, false, true, true⟩, 0x39#8, .stopped) := by decide
theorem test_stop_zero :
    after (exec .stop zZero) (fun t => (t.trace.length, t.line, t.out)) = some (39, ⟨false, false, true, true⟩, 0x00#8) := by
  decide
theorem test_shield_on :
    after (exec (.shield true) z) (fun t => (t.shieldEn, t.line, t.mode, t.out))
      = some (true, ⟨false, false, false, false⟩, .stopped, 0xA5#8) := by decide

/-! A machine at other parameters (R7): the word's fields by R55 at W = 12, the duties by R100. -/

theorem test_step_narrow :
    after (step (zNarrow.withPort [.call 0x10FFE258])) (fun t => (t.duty, t.dur.m1, t.out, t.mode))
      = some (⟨600, 600, 100, 100⟩, 600, 0x5A#8, .forward) := by decide
theorem test_reset_narrow :
    after (step (zNarrow.withPort [.reset])) (fun t => (t.pend[4]?, t.pend.length)) = some (some (.pwmSet .m1 100), 12) := by
  decide

/-! The power stage after `SETFWD` and after `STOP` (R152). -/

theorem test_drive_forward :
    after (exec (.setfwd 600 600) z) (fun t => (t.drive .m1, t.drive .m3)) = some (.dirB 1600, .dirA 1600) := by decide
theorem test_drive_stopped : after (exec .stop z) (fun t => t.drive .m2) = some .off := by decide

/-! Faults and reset (95_test_vectors.md section 2.6). -/

theorem test_illegal :
    after (step (z.withPort [.call 0x700000000000000000])) (fun t => (t.faultOut, t.ready, t.trace))
      = some (2#2, false, []) := by decide
theorem test_halted_ignores :
    after (step ({ z with fault := .fIllegal }.withPort [.call 0x100000025800000258])) (fun t => (t.fault, t.trace))
      = some (.fIllegal, []) := by decide
theorem test_busy :
    after (step (midCommand.withPort [.strobe 0])) (fun t => (t.fault, t.duty.m1, t.line, t.out))
      = some (.fBusy, 1600, ⟨false, false, false, true⟩, 0xA5#8) := by decide
theorem test_config : after (step (zInvalid.withPort [.reset])) (fun t => (t.fault, t.trace)) = some (.fConfig, []) := by decide
theorem test_reset_starts :
    after (step (midCommand.withPort [.reset])) (fun t => (t.fault, t.busy, t.pend.length)) = some (.noFault, true, 12) := by
  decide

/-! The table word of the host, as the first command after reset. -/

theorem test_fetch_word_runs :
    after (step (State.reset.withFetchWord 72 0x610000000000000000)) (fun t => (t.shieldEn, t.line.enN)) = some (true, false) := by
  decide

/-! Witnesses: for each statement with hypotheses, a concrete state and operands that meet all of them together; for a
statement of several clauses, one for each clause, at a boundary where it has one. -/

/-- A move that presents the encoding of a command and waits. -/
def callOf (i : Instr) : PortInput := .call (encode i).toNat

/-- A move that strobes the encoding of a command. -/
def strobeOf (i : Instr) : PortInput := .strobe (encode i).toNat

/-- Z with the receiver's lines as a cut transfer leaves them, under RESET_LINES.LATCH = 1. -/
def zLatchHigh : State := State.resetWith { cfgOf .reference with resetLines := ⟨false, false, true, rfl⟩ } 0x00#8 0xA5#8

theorem witness_StepRunsPresentedCommand :
    (z.withPort [callOf .stop]).port = callOf .stop :: [] ∧ (callOf .stop).rst = false ∧ (callOf .stop).valid = true ∧
      (callOf .stop).waits = true ∧ decodeWord z.cfg.speedW (callOf .stop).cw = .ok .stop := by decide

theorem witness_StrobedWordIsAccepted :
    (z.withPort [strobeOf .stop]).port = strobeOf .stop :: [] ∧ (strobeOf .stop).rst = false ∧
      (strobeOf .stop).valid = true ∧ (strobeOf .stop).waits = false ∧ decodeWord z.cfg.speedW (strobeOf .stop).cw = .ok .stop ∧
      (z.withPort [strobeOf .stop]).fault = .noFault ∧ (z.withPort [strobeOf .stop]).busy = false := by decide

theorem witness_MicroStepsEmitTraceInOrder_first_and_last :
    (z.withPort [.strobe (encode (.settl 300)).toNat]).port = [.strobe (encode (.settl 300)).toNat] ∧
      decodeWord z.cfg.speedW (encode (.settl 300)).toNat = .ok (.settl 300) ∧
      (z.withPort [.strobe (encode (.settl 300)).toNat]).fault = .noFault ∧
      (z.withPort [.strobe (encode (.settl 300)).toNat]).busy = false ∧ 0 < (commandOf z.cfg (.settl 300)).trace.length ∧ 38 < (commandOf z.cfg (.settl 300)).trace.length := by decide

theorem witness_MicroStepsRefineCommand :
    (z.withPort [.strobe (encode (.shield true)).toNat]).port = [.strobe (encode (.shield true)).toNat] ∧
      decodeWord z.cfg.speedW (encode (.shield true)).toNat = .ok (.shield true) ∧
      (z.withPort [.strobe (encode (.shield true)).toNat]).fault = .noFault ∧
      (z.withPort [.strobe (encode (.shield true)).toNat]).busy = false := by decide

theorem witness_DecodeInvertsEncodeAtEveryWidth :
    (0 < 1 ∧ (Instr.settl (-1)).wellFormedAt 1 = true) ∧
      (0 < 32 ∧ (Instr.setfwd (-2147483648) 2147483647).wellFormedAt 32 = true) := by decide

theorem witness_DecodedCommandReencodes :
    decodeAt 32 0x61FFFFFFFFFFFFFFFF#72 = .ok (.shield true) ∧
      decodeAt 1 0x0C2#10 = .ok (.settl (-1)) := by decide

theorem witness_ReservedWordsAreIllegal :
    (z.withPort [.call 0x700000000000000000]).port = [.call 0x700000000000000000] ∧
      decodeWord z.cfg.speedW 0x700000000000000000 = .error .reservedOpcode ∧
      decodeAt 32 0x120000000000000000#72 = .error .reservedBits ∧
      (∃ i, decodeAt 32 0x600000000000000000#72 = .ok i) ∧ (z.withPort [.call 0x700000000000000000]).Ready :=
  ⟨rfl, by decide, by decide, ⟨.shield false, by decide⟩, rfl, rfl⟩

theorem witness_UnusedFieldsAreIgnored :
    decodeAt 32 0x500000000000000000#72 = .ok .stop ∧
      0x500000000000000000#72 &&& Instr.stop.usedMaskAt 32 = 0x51FFFFFFFFFFFFFFFF#72 &&& Instr.stop.usedMaskAt 32 := by decide

theorem witness_WordsMatchTheOpcodeTable :
    decode 0x610000000000000000#72 = .ok (.shield true) ∧
      0x610000000000000000#72 &&& matchMask = (Instr.shield false).matchWord := by decide

theorem witness_AssembledWordDecodesBack :
    0 < 32 ∧ assembleWord 32 ['s', 't', 'o', 'p'] = .ok 0x500000000000000000#72 := by decide

theorem witness_PairCommandResult : z.Ready ∧ z.line.clk = false := ⟨⟨rfl, rfl⟩, rfl⟩

theorem witness_TurnCommandResult : z.Ready ∧ z.line.clk = false := ⟨⟨rfl, rfl⟩, rfl⟩

theorem witness_StopResult :
    (z.Ready ∧ z.cfg.stopTx = .none ∧ z.cfg.SourceConstants) ∧
      (zZero.Ready ∧ zZero.cfg.stopTx = .zero ∧ zZero.line.clk = false) :=
  ⟨⟨⟨rfl, rfl⟩, rfl, rfl, rfl, by decide⟩, ⟨rfl, rfl⟩, rfl, rfl⟩

theorem witness_ShieldResult : z.Ready := ⟨rfl, rfl⟩

theorem witness_UnreadyBlockTurnsCommandsAway :
    ({ z with fault := .fBusy } : State).fault ≠ .noFault ∧ midCommand.fault = .noFault ∧ midCommand.busy = true := by decide

theorem witness_CommandsFollowTheModeTable :
    z.Ready ∧ maskSent z.cfg .stop = none ∧ maskSent z.cfg (.settr 1) = some 0x27#8 ∧ z.line.clk = false :=
  ⟨⟨rfl, rfl⟩, by decide, by decide, rfl⟩


theorem witness_MotionCommandsAreIdempotent : isMotion (.setfwd 600 600) = true ∧ z.Ready ∧ z.line.clk = false :=
  ⟨rfl, ⟨rfl, rfl⟩, rfl⟩

theorem witness_EventCountsAreAsListed :
    isMotion (.setbwd 0 0) = true ∧ z.cfg.stopTx = .none ∧ zZero.cfg.stopTx = .zero := by decide

theorem witness_NewDutiesPrecedeNewDirection :
    let s := z.withPort [.strobe (encode (.settl 300)).toNat]
    s.port = [.strobe (encode (.settl 300)).toNat] ∧ decodeWord s.cfg.speedW (encode (.settl 300)).toNat = .ok (.settl 300) ∧
      isMotion (.settl 300) = true ∧ maskSent s.cfg (.settl 300) = some 0xD8#8 ∧ s.fault = .noFault ∧ s.busy = false ∧
      s.line.clk = false ∧ 4 ≤ 38 ∧ 37 < 38 ∧ 38 ≤ 38 := by decide

theorem witness_PowerStageFollowsItsTable :
    let on : State := { z with line := ⟨false, false, true, false⟩ }
    z.line.enN = true ∧ on.line.enN = false ∧
      ({ on with out := 0x00#8 } : State).halfBridge .m1 .a = false ∧
      ({ on with out := 0x00#8 } : State).halfBridge .m1 .b = false ∧
      ({ on with out := 0x04#8 } : State).halfBridge .m1 .a = true ∧
      ({ on with out := 0x04#8 } : State).halfBridge .m1 .b = false ∧
      ({ on with out := 0x08#8 } : State).halfBridge .m1 .a = false ∧
      ({ on with out := 0x08#8 } : State).halfBridge .m1 .b = true := by decide

theorem witness_ReceiverReactsToRisingEdgesOnly : z.line.clk = false ∧ z.line.latch = false ∧ Event.settle ≠ .pin .clk true ∧
    Event.settle ≠ .pin .latch true := by decide

theorem witness_DriveFollowsTheCommand : z.Ready ∧ isMotion (.settr 0) = true ∧ z.line.clk = false :=
  ⟨⟨rfl, rfl⟩, rfl, rfl⟩

/-- A negative clamp bound, which R7 does not exclude. -/
def dNegative : Config := { d with speedMax := -1 }

theorem fit_d : d.DutiesFit := ⟨by decide, by decide, by decide⟩

theorem fit_dFull : dFull.DutiesFit := ⟨by decide, by decide, by decide⟩

theorem source_d : d.SourceConstants := ⟨rfl, rfl, by decide⟩

theorem source_z : z.cfg.SourceConstants := ⟨rfl, rfl, by decide⟩

theorem fit_z : z.cfg.DutiesFit := ⟨by decide, by decide, by decide⟩

theorem witness_ClampAndMapIsPiecewise :
    0 ≤ dNarrow.speedMax ∧ (0 : Int) ≤ 0 ∧ (500 : Int) ≤ dNarrow.speedMax ∧ dNarrow.speedMax ≤ 500 ∧
      dNegative.speedMax < 0 ∧ d.speedMax = 1000 ∧ d.dutyOffset = 1000 ∧ (1000 : Int) ≤ 1000 := by decide

theorem witness_ClampAndMapOrderLaws :
    0 ≤ d.speedMax ∧ (999 : Int) ≤ d.speedMax ∧ clampAndMap d 1000 = clampAndMap d 1000 ∧ (-50 : Int) ≤ 0 ∧
      d.speedMax ≤ 1001 ∧ d.dutyOffset ≤ 2000 ∧ 2000 ≤ d.dutyOffset + d.speedMax := by decide

theorem witness_DutyRegisterHoldsClampAndMap :
    (0 ≤ clampAndMap dSmall 23 ∧ (clampAndMap dSmall 23).toNat < 2 ^ dSmall.dutyW) ∧ dFull.DutiesFit ∧ d.SourceConstants :=
  ⟨by decide, fit_dFull, source_d⟩

theorem witness_HardwareMapperEqualsClampAndMap :
    (0 ≤ dFull.speedMax ∧ 0 ≤ dFull.dutyOffset ∧ dFull.speedMax + dFull.dutyOffset < 2048 ∧ 11 ≤ dFull.dutyW ∧ 11 ≤ 11) ∧
      clampAndMapHw d 11 0x3E7#11 = 1999 := by decide

theorem witness_CommandsSelectDutiesByGroup : z.Ready ∧ z.cfg.DutiesFit ∧ z.cfg.SourceConstants :=
  ⟨⟨rfl, rfl⟩, fit_z, source_z⟩

theorem witness_TransferLawHoldsAtEveryEvent : z.line.clk = false ∧ 34 ≤ 34 ∧ 33 < 34 := by decide

theorem witness_TransferEndState :
    ({ z with work := 0x39#8 } : State).line.clk = false ∧ ({ z with work := 0x39#8 } : State).work = 0x39#8 := by decide

theorem witness_LatchIsLowDuringTheTransfer : (1 ≤ 1 ∧ 1 < 34) ∧ (1 ≤ 33 ∧ 33 < 34) := by decide

theorem witness_DataIsStableWhileClockIsHigh :
    z.line.clk = false ∧ (transmit 0x39#8)[2]? = some (.pin .clk true) ∧ (transmit 0x39#8)[1]? = some (.pin .data false) ∧
      (transmit 0x39#8)[33]? = some (.pin .latch true) ∧ (z.applyAll ((transmit 0x39#8).take 3)).line.clk = true := by decide

theorem witness_ClockHighTransferLosesTheFirstBit :
    ({ z with line := ⟨false, true, false, true⟩ } : State).line.clk = true := by decide

theorem witness_ShadowRegisterIsHidden : z.Ready ∧ z.line.clk = false := ⟨⟨rfl, rfl⟩, rfl⟩

theorem witness_IllegalWordIsPrecise :
    let s := z.withPort [.strobe 0]
    s.port = [.strobe 0] ∧ decodeWord s.cfg.speedW 0 = .error .reservedOpcode ∧ s.fault = .noFault ∧
      s.busy = false ∧ s.pend = [] ∧ s.post = none := by decide

theorem witness_WordWhileBusyAbandonsTheCommand :
    let s := midCommand.withPort [.strobe 0]
    s.port = [.strobe 0] ∧ s.fault = .noFault ∧ s.busy = true := by decide

theorem witness_HaltedBlockOnlyLeavesByReset :
    let s : State := { z with fault := .fIllegal }
    s.fault ≠ .noFault ∧ s.port = [] ∧ (s.withPort [callOf .stop]).fault ≠ .noFault ∧
      (s.withPort [callOf .stop]).port = callOf .stop :: [] ∧ (callOf .stop).rst = false := by decide

theorem witness_ResetBeatsEverything :
    let p : PortInput := ⟨true, true, 0, false⟩
    (midCommand.withPort [p]).port = p :: [] ∧ p.rst = true ∧ midCommand.cfg.cfgValid = true := by decide

theorem witness_ResetSequenceReachesTheResetState :
    (z.withPort [.reset]).port = [.reset] ∧ PortInput.reset.rst = true ∧ z.cfg.cfgValid = true ∧
      z.cfg.resetLines.latch = false ∧ zLatchHigh.cfg.resetLines.latch = true ∧
      ({ zLatchHigh with line := ⟨true, false, false, true⟩ } : State).line.latch = false := by decide

theorem witness_InvalidHandleHaltsAtReset :
    (zInvalid.withPort [.reset]).port = [.reset] ∧ PortInput.reset.rst = true ∧ zInvalid.cfg.cfgValid = false := by decide

theorem consistent_z : z.Consistent where
  dutyLegal := by
    intro ch
    cases ch <;> exact ⟨by decide, fun _ => by decide⟩
  pendLegal := by intro e he; simp [z, State.resetWith] at he
  enable := rfl
  mirrored := rfl
  busyIff := rfl
  pendShort := by decide
  postNone := fun _ => rfl
  haltedIdle := fun _ => rfl

theorem inv_z : z.Inv := .inl ⟨rfl, by decide, consistent_z⟩

theorem serialSafe_z : z.SerialSafe where
  outKept := fun n => .inl (by rw [State.microSteps_of_pend_nil rfl, State.microSteps_of_pend_nil rfl])
  clockLow := fun _ => rfl

theorem witness_EveryStepKeepsTheInvariant : z.Inv ∧ step z = .next z := ⟨inv_z, rfl⟩

theorem witness_OutOnlyEverHoldsWholeMasks :
    z.Inv ∧ z.SerialSafe ∧ z.cfg.resetLines.latch = false ∧ step z = .next z := ⟨inv_z, serialSafe_z, rfl, rfl⟩

theorem witness_EveryStepKeepsTheConfiguration : step z = .next z := rfl

theorem witness_StartedChannelsStayStarted : z.cfg.cfgValid = true ∧ z.run.get .m4 = true ∧ step z = .next z :=
  ⟨rfl, rfl, rfl⟩

/-- Z while `SHIELD 1` is in flight. -/
def busyShield : State := z.accept (commandOf z.cfg (.shield true))

theorem witness_BusyBlockIsReadyWithin39Steps :
    busyShield.Inv ∧ busyShield.fault = .noFault ∧ busyShield.port = [] ∧ busyShield.busy = true := by
  refine ⟨.inl ⟨rfl, by decide, ?_⟩, rfl, rfl, rfl⟩
  exact
    { dutyLegal := consistent_z.dutyLegal
      pendLegal := by
        intro e he
        have h : e = .pin .enN false := by simpa [busyShield, commandOf, shieldCommand] using he
        subst h
        trivial
      enable := rfl
      mirrored := rfl
      busyIff := rfl
      pendShort := by decide
      postNone := fun _ => rfl
      haltedIdle := fun h => absurd rfl h }

end Sys2Proof.Tests
end

/-! The configuration is not state (R37): what each part of a step leaves of it, and so what a step leaves of it. -/

namespace Sys2Proof.Machine

@[simp] theorem State.microStep_cfg (s : State) : s.microStep.cfg = s.cfg := by
  obtain ⟨-, h⟩ | ⟨e, -, h⟩ | ⟨e, rest, -, -, h⟩ := s.microStep_cases
  · rw [h]
  · simp [h]
  · simp [h]

@[simp] theorem State.microSteps_cfg (s : State) (n : Nat) : (s.microSteps n).cfg = s.cfg := by
  induction n with
  | zero => rfl
  | succ n ih => rw [microSteps_succ', microStep_cfg, ih]

@[simp] theorem State.drain_cfg (s : State) : s.drain.cfg = s.cfg := s.microSteps_cfg _

@[simp] theorem State.advance_cfg (s : State) : s.advance.cfg = s.cfg := by
  obtain ⟨-, h⟩ | ⟨-, h⟩ := s.advance_cases
  · rw [h]
  · simp [h]

@[simp] theorem State.startReset_cfg (s : State) : s.startReset.cfg = s.cfg := by
  obtain ⟨-, h⟩ | ⟨-, h⟩ := s.startReset_cases
  · rw [h]
  · simp [h]

/-- Settles O50, over everything one step can do (`step_cases`): taking CALLER's move from the port keeps the configuration,
and so does each of the reactions to it (R37). -/
theorem everyStepKeepsTheConfiguration : Obligations.EveryStepKeepsTheConfiguration := by
  intro s t hst
  obtain ⟨u, hport, hstep⟩ := step_cases s
  have taken : u.cfg = s.cfg := by
    obtain ⟨-, rfl⟩ | ⟨p, -, hu⟩ := hport
    · rfl
    · rw [hu, State.withPort_cfg]
  have reacted : t.cfg = u.cfg := by
    rw [hst] at hstep
    obtain ⟨⟨⟩⟩ | ⟨⟨⟩⟩ | ⟨-, ⟨⟩⟩ | ⟨-, -, ⟨⟩⟩ | ⟨-, -, ⟨⟩⟩ | ⟨i, -, -, ⟨⟨⟩⟩ | ⟨⟨⟩⟩⟩ := hstep
    · exact u.startReset_cfg
    · exact u.advance_cfg
    · rfl
    · exact u.raise_cfg .fBusy
    · exact u.raise_cfg .fIllegal
    · rw [State.drain_cfg, State.accept_cfg]
    · rw [State.accept_cfg]
  rw [reacted, taken]

end Sys2Proof.Machine

/-! The fields of a word at every speed width (R55): of a packed word, and under a bitwise AND. -/

namespace Sys2Proof

section Fields

variable {w : Nat} (op : BitVec 4) (rsv : BitVec 3) (f : Bit) (a b : BitVec w)

@[simp] theorem fieldB_packFields : fieldB w (packFields w op rsv f a b) = b := by
  rw [fieldB, packFields, BitVec.extractLsb'_cast, BitVec.extractLsb'_append_eq_right]

@[simp] theorem fieldA_packFields : fieldA w (packFields w op rsv f a b) = a := by
  rw [fieldA, packFields, BitVec.extractLsb'_cast, BitVec.extractLsb'_append_eq_of_le (by omega), Nat.sub_self,
    BitVec.extractLsb'_append_eq_right]

@[simp] theorem fieldF_packFields : fieldF w (packFields w op rsv f a b) = f := by
  simp only [fieldF, packFields, BitVec.getLsbD_cast, BitVec.getLsbD_append]
  simp [show ¬ 2 * w < w by omega, show 2 * w - w - w = 0 by omega, show ¬ 2 * w - w < w by omega]

@[simp] theorem fieldRsv_packFields : fieldRsv w (packFields w op rsv f a b) = rsv := by
  rw [fieldRsv, packFields, BitVec.extractLsb'_cast, BitVec.extractLsb'_append_eq_of_le (by omega),
    BitVec.extractLsb'_append_eq_of_le (by omega), BitVec.extractLsb'_append_eq_of_le (by omega),
    show 2 * w + 1 - w - w - 1 = 0 by omega, BitVec.extractLsb'_append_eq_right]

@[simp] theorem fieldOp_packFields : fieldOp w (packFields w op rsv f a b) = op := by
  rw [fieldOp, packFields, BitVec.extractLsb'_cast, BitVec.extractLsb'_append_eq_of_le (by omega),
    BitVec.extractLsb'_append_eq_of_le (by omega), BitVec.extractLsb'_append_eq_of_le (by omega),
    show 2 * w + 4 - w - w - 1 = 3 by omega, BitVec.extractLsb'_append_eq_left]

theorem packFields_and (op' : BitVec 4) (rsv' : BitVec 3) (f' : Bit) (a' b' : BitVec w) :
    packFields w op rsv f a b &&& packFields w op' rsv' f' a' b' =
      packFields w (op &&& op') (rsv &&& rsv') (f && f') (a &&& a') (b &&& b') := by
  simp only [packFields, BitVec.and_cast, BitVec.and_append, BitVec.ofBool_and_ofBool]

variable (cw m : BitVec (2 * w + 8))

@[simp] theorem fieldB_and : fieldB w (cw &&& m) = fieldB w cw &&& fieldB w m := BitVec.extractLsb'_and

@[simp] theorem fieldA_and : fieldA w (cw &&& m) = fieldA w cw &&& fieldA w m := BitVec.extractLsb'_and

@[simp] theorem fieldF_and : fieldF w (cw &&& m) = (fieldF w cw && fieldF w m) := BitVec.getLsbD_and

@[simp] theorem fieldRsv_and : fieldRsv w (cw &&& m) = fieldRsv w cw &&& fieldRsv w m := BitVec.extractLsb'_and

@[simp] theorem fieldOp_and : fieldOp w (cw &&& m) = fieldOp w cw &&& fieldOp w m := BitVec.extractLsb'_and

end Fields

/-! What the decoder answers, said once (R57 to R59). -/

/-- The operands of a command are the values of the fields it uses in the word (R57, R58). -/
def Instr.ReadsOperands (w : Nat) (cw : BitVec (2 * w + 8)) : Instr → Prop
  | .setfwd a b => (fieldA w cw).toInt = a ∧ (fieldB w cw).toInt = b
  | .setbwd a b => (fieldA w cw).toInt = a ∧ (fieldB w cw).toInt = b
  | .settl a => (fieldA w cw).toInt = a
  | .settr a => (fieldA w cw).toInt = a
  | .stop => True
  | .shield f => fieldF w cw = f

theorem decodeAt_eq_ok_iff {w : Nat} {cw : BitVec (2 * w + 8)} {i : Instr} :
    decodeAt w cw = .ok i ↔ fieldRsv w cw = 0#3 ∧ fieldOp w cw = i.opcode ∧ i.ReadsOperands w cw := by
  constructor
  · intro h
    unfold decodeAt at h
    split at h
    · cases h
    next hrsv =>
      refine ⟨not_not.mp hrsv, ?_⟩
      split at h <;> cases h
      all_goals next hop => exact ⟨BitVec.eq_of_toNat_eq hop, by simp [Instr.ReadsOperands]⟩
  · rintro ⟨hrsv, hop, hread⟩
    cases i <;> simp_all [decodeAt, Instr.opcode, Instr.ReadsOperands]

/-- A word is Illegal exactly when its reserved bits are not zero or its opcode is reserved (R59). -/
theorem decodeAt_isError_iff (w : Nat) (cw : BitVec (2 * w + 8)) :
    (∃ e, decodeAt w cw = .error e) ↔
      fieldRsv w cw ≠ 0#3 ∨ fieldOp w cw = 0#4 ∨ 7 ≤ (fieldOp w cw).toNat := by
  have hzero : fieldOp w cw = 0#4 ↔ (fieldOp w cw).toNat = 0 := BitVec.toNat_inj.symm
  unfold decodeAt
  split
  next hrsv => simp [hrsv]
  next hrsv =>
    rw [hzero]
    split
    case h_7 => exact ⟨fun _ => .inr (by grind), fun _ => ⟨_, rfl⟩⟩
    all_goals next hop => simp [hrsv, hop]

/-! The fields a command ignores (R60). -/

theorem fieldRsv_and_usedMaskAt {w : Nat} (cw : BitVec (2 * w + 8)) (i : Instr) :
    fieldRsv w (cw &&& i.usedMaskAt w) = fieldRsv w cw := by
  have hmask : fieldRsv w (i.usedMaskAt w) = BitVec.allOnes 3 := by cases i <;> exact fieldRsv_packFields ..
  rw [fieldRsv_and, hmask, BitVec.and_allOnes]

theorem fieldOp_and_usedMaskAt {w : Nat} (cw : BitVec (2 * w + 8)) (i : Instr) :
    fieldOp w (cw &&& i.usedMaskAt w) = fieldOp w cw := by
  have hmask : fieldOp w (i.usedMaskAt w) = BitVec.allOnes 4 := by cases i <;> exact fieldOp_packFields ..
  rw [fieldOp_and, hmask, BitVec.and_allOnes]

theorem readsOperands_and_usedMaskAt {w : Nat} (cw : BitVec (2 * w + 8)) (i : Instr) :
    i.ReadsOperands w (cw &&& i.usedMaskAt w) ↔ i.ReadsOperands w cw := by
  cases i <;> simp [Instr.ReadsOperands, Instr.usedMaskAt]

/-- Clearing the fields a command ignores does not change whether a word decodes to it (R60). -/
theorem decodeAt_and_usedMaskAt {w : Nat} (cw : BitVec (2 * w + 8)) (i : Instr) :
    decodeAt w (cw &&& i.usedMaskAt w) = .ok i ↔ decodeAt w cw = .ok i := by
  simp only [decodeAt_eq_ok_iff, fieldRsv_and_usedMaskAt, fieldOp_and_usedMaskAt, readsOperands_and_usedMaskAt]

/-- An encoding lies within the fields its command uses (R63). -/
theorem encodeAt_and_usedMaskAt (w : Nat) (i : Instr) : encodeAt w i &&& i.usedMaskAt w = encodeAt w i := by
  cases i <;> simp [encodeAt, packWord, Instr.usedMaskAt, packFields_and, Instr.opcode]

/-- Settles O9. Decoding to a command does not depend on the fields the command ignores, so it carries over between words
that agree on the others; an encoding is its own masked form, so the mask's complement leaves nothing of it. -/
theorem unusedFieldsAreIgnored : Obligations.UnusedFieldsAreIgnored := by
  intro w
  constructor
  · intro cw cw' i hdec hagree
    rw [← decodeAt_and_usedMaskAt, ← hagree, decodeAt_and_usedMaskAt]
    exact hdec
  · intro i
    calc encodeAt w i &&& ~~~ i.usedMaskAt w
      _ = encodeAt w i &&& i.usedMaskAt w &&& ~~~ i.usedMaskAt w := by rw [encodeAt_and_usedMaskAt]
      _ = encodeAt w i &&& (i.usedMaskAt w &&& ~~~ i.usedMaskAt w) := BitVec.and_assoc ..
      _ = 0#(2 * w + 8) := by simp

end Sys2Proof

/-! A word presented to a ready block (R46, R141). -/

namespace Sys2Proof.Machine

theorem State.takeWord_of_error {s : State} {cw : Nat} {e : Illegal} (h : decodeWord s.cfg.speedW cw = .error e)
    (waits : Bool) : s.takeWord cw waits = .next (s.raise .fIllegal) := by
  simp [takeWord, h]

theorem step_of_presented {s : State} {p : PortInput} {rest : List PortInput} (hport : s.port = p :: rest)
    (hrst : p.rst = false) (hvalid : p.valid = true) :
    step s = (s.withPort rest).gate ((s.withPort rest).takeWord p.cw p.waits) := by
  simp [step, hport, State.react, hrst, hvalid]

theorem State.gate_of_ready {s : State} (h : s.Ready) (body : Outcome) : s.gate body = body := by
  obtain ⟨hfault, hbusy⟩ := h
  simp [gate, halted, hfault, hbusy]

/-- Settles O8. The words that fail to decode are those of `decodeAt_isError_iff`; a ready block takes a presented word, and
one that fails to decode raises F_ILLEGAL (R59, R141). -/
theorem reservedWordsAreIllegal : Obligations.ReservedWordsAreIllegal := by
  refine ⟨decodeAt_isError_iff, ?_⟩
  intro s p rest e hport hrst hvalid hdec hready
  have hstep : step s = .next ((s.withPort rest).raise .fIllegal) :=
    calc step s
      _ = (s.withPort rest).gate ((s.withPort rest).takeWord p.cw p.waits) := step_of_presented hport hrst hvalid
      _ = (s.withPort rest).takeWord p.cw p.waits := State.gate_of_ready (s := s.withPort rest) hready _
      _ = .next ((s.withPort rest).raise .fIllegal) := State.takeWord_of_error (s := s.withPort rest) hdec p.waits
  exact ⟨_, hstep, State.raise_fault ..⟩

end Sys2Proof.Machine

/-! A command's events in its three parts: the duty writes, the serial traffic, the write of EN_N (R77, R84, R85). -/

namespace Sys2Proof.Machine

/-- The duty writes of a command (R77, R84); `SHIELD` has none (R85). -/
def dutyEvents (c : Config) : Instr → List Event
  | .setfwd a b => dutyWrites (pairDuty c a b)
  | .setbwd a b => dutyWrites (pairDuty c a b)
  | .settl a => dutyWrites (turnDuty c a)
  | .settr a => dutyWrites (turnDuty c a)
  | .stop => dutyWrites (stopDuty c)
  | .shield _ => []

/-- The serial traffic of a command: the transfer of the mask it sends, if it sends one (R77, R84). -/
def serialEvents (c : Config) (i : Instr) : List Event := ((maskSent c i).map transmit).getD []

theorem commandOf_trace (c : Config) (i : Instr) :
    (commandOf c i).trace = dutyEvents c i ++ serialEvents c i ++ [.pin .enN (!shieldAfter i)] := by
  cases i with
  | stop => cases h : c.stopTx <;> simp [commandOf, stopCommand, dutyEvents, serialEvents, maskSent, stopTransfer,
      shieldAfter, h]
  | _ => rfl

@[simp] theorem commandOf_post_getD (c : Config) (i : Instr) (m : Mode) :
    (commandOf c i).post.getD m = modeAfter m i := by
  cases i <;> rfl

/-- A completed command has applied its three parts in order to the accepted state (R46). -/
theorem State.accept_commandOf_drain (s : State) (c : Config) (i : Instr) :
    (s.accept (commandOf c i)).drain =
      (((((s.accept (commandOf c i)).applyAll (dutyEvents c i)).applyAll (serialEvents c i)).apply
        (.pin .enN (!shieldAfter i))).withPend []).finish := by
  rw [accept_drain _ _ (commandOf_trace_ne_nil c i), commandOf_trace, applyAll_append, applyAll_append]
  rfl

/-! What each part writes. -/

theorem applyAll_dutyEvents (s : State) (c : Config) (i : Instr) :
    s.applyAll (dutyEvents c i) = { s with
      duty := dutyAfter c s.duty i
      dur := dutyAfter c s.dur i
      trace := s.trace ++ dutyEvents c i } := by
  cases i with
  | shield f => simp [dutyEvents, dutyAfter]
  | _ => exact applyAll_dutyWrites ..

theorem State.applyAll_duties_of_no_pwmSet (s : State) {es : List Event} (h : ∀ ch v, Event.pwmSet ch v ∉ es) :
    (s.applyAll es).duty = s.duty ∧ (s.applyAll es).dur = s.dur := by
  induction es generalizing s with
  | nil => exact ⟨rfl, rfl⟩
  | cons e es ih =>
    have htail : ∀ ch v, Event.pwmSet ch v ∉ es := fun ch v hmem => h ch v (.tail e hmem)
    have hhead : (s.apply e).duty = s.duty ∧ (s.apply e).dur = s.dur := by
      cases e with
      | pwmSet ch v => exact absurd (.head es) (h ch v)
      | pin p b => cases p <;> exact ⟨rfl, rfl⟩
      | _ => exact ⟨rfl, rfl⟩
    rw [applyAll_cons, (ih _ htail).1, (ih _ htail).2]
    exact hhead

theorem pwmSet_notMem_serialEvents (c : Config) (i : Instr) (ch : Channel) (v : Duty) :
    Event.pwmSet ch v ∉ serialEvents c i := by
  cases h : maskSent c i <;> simp [serialEvents, h, transmit, transmitBits, bitEvents]

/-- The serial traffic leaves OUT as it was where the command sends nothing, and makes it the mask sent where CLK was low
(R84, R122). -/
theorem State.applyAll_serialEvents_out (s : State) (c : Config) (i : Instr) :
    (maskSent c i = none → (s.applyAll (serialEvents c i)).out = s.out) ∧
    (∀ m, maskSent c i = some m → s.line.clk = false → (s.applyAll (serialEvents c i)).out = m) := by
  constructor
  · intro hnone
    simp [serialEvents, hnone]
  · intro m hsome hclk
    simp [serialEvents, hsome, applyAll_transmit s m hclk]

theorem State.apply_enN (s : State) (b : Bit) :
    s.apply (.pin .enN b) =
      { s with line := { s.line with enN := b }, shieldEn := !b, trace := s.trace ++ [.pin .enN b] } := rfl

/-! Every command on a ready block, and on one that is not (R76, R86, R88). -/

/-- A ready block takes every command to its end, with the duties of R76 in DUTY and in DUR. -/
theorem exec_duties {s : State} (h : s.Ready) (i : Instr) :
    ∃ t, exec i s = .next t ∧ t.duty = dutyAfter s.cfg s.duty i ∧ t.dur = dutyAfter s.cfg s.dur i := by
  obtain ⟨hfault, hbusy⟩ := h
  refine ⟨_, exec_of_ready i hfault hbusy, ?_⟩
  rw [State.accept_commandOf_drain]
  set u := (s.accept (commandOf s.cfg i)).applyAll (dutyEvents s.cfg i) with hu
  have hwritten : u.duty = dutyAfter s.cfg s.duty i ∧ u.dur = dutyAfter s.cfg s.dur i := by
    simp [hu, applyAll_dutyEvents]
  obtain ⟨hduty, hdur⟩ := u.applyAll_duties_of_no_pwmSet (pwmSet_notMem_serialEvents s.cfg i)
  simpa [State.apply_enN, hduty, hdur] using hwritten

/-- Settles O17, over what the gate does with a command (`gate_cases`). -/
theorem unreadyBlockTurnsCommandsAway : Obligations.UnreadyBlockTurnsCommandsAway := by
  intro s i
  rw [exec_eq_perform, State.perform]
  obtain ⟨hhalted, hgate⟩ | ⟨hfault, hbusy, hgate⟩ | ⟨hfault, hidle, -⟩ :=
    s.gate_cases (.next (s.accept (commandOf s.cfg i)).drain)
  case inl => exact ⟨fun _ => hgate, fun hfault => absurd hfault hhalted⟩
  case inr.inl => exact ⟨fun hhalted => absurd hfault hhalted, fun _ _ => hgate⟩
  case inr.inr => exact ⟨fun hhalted => absurd hfault hhalted, fun _ hbusy => by simp [hidle] at hbusy⟩

/-- Settles O18. The write of EN_N comes last and sets SHIELD_EN, the command's `post` sets MODE, and of the two parts before
it only the serial traffic reaches OUT. -/
theorem commandsFollowTheModeTable : Obligations.CommandsFollowTheModeTable := by
  rintro s i ⟨hfault, hbusy⟩
  refine ⟨_, exec_of_ready i hfault hbusy, ?_⟩
  rw [State.accept_commandOf_drain]
  set u := (s.accept (commandOf s.cfg i)).applyAll (dutyEvents s.cfg i) with hu
  have hout : u.out = s.out := by simp [hu, applyAll_dutyEvents]
  have hline : u.line = s.line := by simp [hu, applyAll_dutyEvents]
  obtain ⟨hkept, hsent⟩ := u.applyAll_serialEvents_out s.cfg i
  refine ⟨⟨?_, ?_⟩, ?_, ?_, fun hnone => ?_, fun m hsome hlow => ?_⟩
  · simp [hu, hfault]
  · simp
  · simp [hu]
  · simp [State.apply_enN]
  · simpa [State.apply_enN, hout] using hkept hnone
  · simpa [State.apply_enN] using hsent m hsome (by rw [hline]; exact hlow)

/-! The values that a command's duties take (R76, R100, R102). -/

theorem clampAndMap_bounds {c : Config} (h : 0 ≤ c.speedMax) (a : Int) :
    c.dutyOffset ≤ clampAndMap c a ∧ clampAndMap c a ≤ c.speedMax + c.dutyOffset := by
  unfold clampAndMap clamp
  omega

/-- Where the duty registers hold every result of `clampAndMap`, a duty is that result exactly (R102). -/
theorem dutyOf_cast {c : Config} (h : c.DutiesFit) (a : Int) : (dutyOf c a : Int) = clampAndMap c a := by
  obtain ⟨hmax, hoffset, hwidth⟩ := h
  obtain ⟨hlow, hhigh⟩ := clampAndMap_bounds hmax a
  exact holdDuty_cast (by omega) (by omega)

theorem pairDuty_cast {c : Config} (h : c.DutiesFit) (a b : Int) (ch : Channel) :
    (pairDuty c a b ch : Int) = if c.leftGroup.contains ch then clampAndMap c a else clampAndMap c b := by
  unfold pairDuty
  split
  · exact dutyOf_cast h a
  · exact dutyOf_cast h b

theorem dutiesFit_of_sourceConstants {c : Config} (h : c.SourceConstants) : c.DutiesFit := by
  obtain ⟨hmax, hoffset, hwidth⟩ := h
  have hpow : 2 ^ 11 ≤ 2 ^ c.dutyW := Nat.pow_le_pow_right (by decide) hwidth
  rw [Config.DutiesFit, hmax, hoffset]
  exact ⟨by decide, by decide, lt_of_lt_of_le (by decide) hpow⟩

theorem clampAndMap_zero_of_sourceConstants {c : Config} (h : c.SourceConstants) : clampAndMap c 0 = 1000 := by
  obtain ⟨hmax, hoffset, -⟩ := h
  simp [clampAndMap, clamp, hmax, hoffset]

/-- A command that writes the duties `f` leaves their values in DUTY, and the same in DUR. -/
theorem exec_duty_values {s : State} (h : s.Ready) {i : Instr} {f : Channel → Duty} {value : Channel → Int}
    (hwrites : ∀ old, dutyAfter s.cfg old i = PerChannel.ofFn f)
    (hvalue : s.cfg.DutiesFit → ∀ ch, (f ch : Int) = value ch) :
    ∃ t, exec i s = .next t ∧
      ∀ ch, (s.cfg.DutiesFit → (t.duty.get ch : Int) = value ch) ∧ t.dur.get ch = t.duty.get ch := by
  obtain ⟨t, hexec, hduty, hdur⟩ := exec_duties h i
  refine ⟨t, hexec, fun ch => ⟨fun hfit => ?_, ?_⟩⟩
  · rw [hduty, hwrites, PerChannel.get_ofFn, hvalue hfit]
  · rw [hduty, hdur, hwrites, hwrites]

/-- Settles O19: each command but `SHIELD` writes one duty per channel (`exec_duty_values`), whose value is the result of
`clampAndMap` that R76 selects for the channel. -/
theorem commandsSelectDutiesByGroup : Obligations.CommandsSelectDutiesByGroup := by
  intro s h
  refine ⟨fun a b => ?setfwd, fun a b => ?setbwd, fun a => ?settl, fun a => ?settr, ?stop, fun f => ?shield⟩
  case setfwd => exact exec_duty_values h (fun _ => rfl) fun hfit => pairDuty_cast hfit a b
  case setbwd => exact exec_duty_values h (fun _ => rfl) fun hfit => pairDuty_cast hfit a b
  case settl => exact exec_duty_values h (fun _ => rfl) fun hfit _ => dutyOf_cast hfit a
  case settr => exact exec_duty_values h (fun _ => rfl) fun hfit _ => dutyOf_cast hfit a
  case stop =>
    obtain ⟨t, hexec, hch⟩ := exec_duty_values h (i := .stop) (fun _ => rfl) fun hfit _ => dutyOf_cast hfit 0
    refine ⟨t, hexec, fun ch => ?_⟩
    obtain ⟨hduty, hdur⟩ := hch ch
    refine ⟨hduty, fun hsource => ⟨clampAndMap_zero_of_sourceConstants hsource, ?_⟩, hdur⟩
    have hcast := hduty (dutiesFit_of_sourceConstants hsource)
    rw [clampAndMap_zero_of_sourceConstants hsource] at hcast
    exact_mod_cast hcast
  case shield => exact exec_duties h (.shield f)

end Sys2Proof.Machine

/-! The power stage (R152), by EN_N and the two direction bits of the channel. -/

namespace Sys2Proof.Machine

section PowerStage

variable {s : State} {ch : Channel}

theorem State.drive_of_disabled (hoff : s.line.enN = true) : s.drive ch = .off := by
  simp [drive, hoff]

theorem State.drive_of_undriven (hon : s.line.enN = false) (hA : s.halfBridge ch .a = false)
    (hB : s.halfBridge ch .b = false) : s.drive ch = .coast := by
  simp [drive, hon, hA, hB]

theorem State.drive_of_aDriven (hon : s.line.enN = false) (hA : s.halfBridge ch .a = true)
    (hB : s.halfBridge ch .b = false) : s.drive ch = .dirA (s.dur.get ch) := by
  simp [drive, hon, hA, hB]

theorem State.drive_of_bDriven (hon : s.line.enN = false) (hA : s.halfBridge ch .a = false)
    (hB : s.halfBridge ch .b = true) : s.drive ch = .dirB (s.dur.get ch) := by
  simp [drive, hon, hA, hB]

end PowerStage

/-- Settles O24, one lemma for each row of R152's table: a direction bit of OUT is what `halfBridge` reads. -/
theorem powerStageFollowsItsTable : Obligations.PowerStageFollowsItsTable := by
  intro s ch
  exact ⟨State.drive_of_disabled, State.drive_of_undriven, State.drive_of_aDriven, State.drive_of_bDriven⟩

end Sys2Proof.Machine

/-! Faults (R141 to R143): what `raise` writes, and how each part of a step answers a busy and a halted block. -/

namespace Sys2Proof.Machine

theorem State.raise_eq (s : State) (f : FaultCode) :
    s.raise f = { s with fault := f, pend := [], post := none, busy := false } := rfl

/-- With nothing in flight there is nothing for a fault to abandon, so it is precise (R148). -/
theorem State.raise_of_idle {s : State} (hbusy : s.busy = false) (hpend : s.pend = []) (hpost : s.post = none)
    (f : FaultCode) : s.raise f = { s with fault := f } := by
  rw [raise_eq, ← hbusy, ← hpend, ← hpost]

theorem State.gate_of_busy {s : State} (hfault : s.fault = .noFault) (hbusy : s.busy = true) (body : Outcome) :
    s.gate body = .next (s.raise .fBusy) := by
  simp [gate, halted, hfault, hbusy]

theorem State.gate_of_halted {s : State} (h : s.fault ≠ .noFault) (body : Outcome) : s.gate body = .next s := by
  simp [gate, halted, h]

theorem State.advance_of_halted {s : State} (h : s.fault ≠ .noFault) : s.advance = s := by
  simp [advance, halted, h]

/-- Without `rst` a halted block reacts to no pins, whether they present a word or not (R143, R147). -/
theorem State.react_of_halted {s : State} {p : PortInput} (h : s.fault ≠ .noFault) (hrst : p.rst = false) :
    s.react p = .next s := by
  cases hvalid : p.valid with
  | false => simp [react, hrst, hvalid, advance_of_halted h]
  | true => simp [react, hrst, hvalid, gate_of_halted h]

theorem step_of_port_nil {s : State} (hport : s.port = []) : step s = .next s.advance := by
  simp [step, hport]

theorem step_of_port_cons {s : State} {p : PortInput} {rest : List PortInput} (hport : s.port = p :: rest) :
    step s = (s.withPort rest).react p := by
  simp [step, hport]

/-- Settles O40: the ready block takes the word and raises F_ILLEGAL, which abandons nothing (`raise_of_idle`). -/
theorem illegalWordIsPrecise : Obligations.IllegalWordIsPrecise := by
  intro s p rest e hport hrst hvalid hdec hready hpend hpost
  set u := s.withPort rest
  have hreadyU : u.Ready := hready
  have hdecU : decodeWord u.cfg.speedW p.cw = .error e := hdec
  have hbusyU : u.busy = false := hready.2
  calc step s
    _ = u.gate (u.takeWord p.cw p.waits) := step_of_presented hport hrst hvalid
    _ = u.takeWord p.cw p.waits := State.gate_of_ready hreadyU _
    _ = .next (u.raise .fIllegal) := State.takeWord_of_error hdecU p.waits
    _ = .next { u with fault := .fIllegal } := by rw [State.raise_of_idle hbusyU hpend hpost]

/-- Settles O41: the gate of a busy block raises F_BUSY whatever it would do with the word, so the word is not decoded. -/
theorem wordWhileBusyAbandonsTheCommand : Obligations.WordWhileBusyAbandonsTheCommand := by
  intro s p rest hport hrst hvalid hfault hbusy
  set u := s.withPort rest
  have hfaultU : u.fault = .noFault := hfault
  have hbusyU : u.busy = true := hbusy
  calc step s
    _ = u.gate (u.takeWord p.cw p.waits) := step_of_presented hport hrst hvalid
    _ = .next (u.raise .fBusy) := State.gate_of_busy hfaultU hbusyU _
    _ = .next { u with fault := .fBusy, pend := [], post := none, busy := false } := by rw [State.raise_eq]

/-- Settles O42: the writes of `raise`, then a halted block's step with and without a move of CALLER, then R35's good end,
which asks for no fault. -/
theorem haltedBlockOnlyLeavesByReset : Obligations.HaltedBlockOnlyLeavesByReset := by
  refine ⟨State.raise_eq, fun s hhalted => ⟨fun hport => ?noMove, fun p rest hport hrst => ?move, ?notGood⟩⟩
  case noMove => rw [step_of_port_nil hport, State.advance_of_halted hhalted]
  case move =>
    have hhaltedU : (s.withPort rest).fault ≠ .noFault := hhalted
    calc step s
      _ = (s.withPort rest).react p := step_of_port_cons hport
      _ = .next (s.withPort rest) := State.react_of_halted hhaltedU hrst
  case notGood =>
    rintro ⟨-, hfault⟩
    exact hhalted hfault

end Sys2Proof.Machine

/-! A word and its fields (R55): a word is the packing of its fields, and the fields of an encoding (R63). -/

namespace Sys2Proof

theorem packFields_fields {w : Nat} (cw : BitVec (2 * w + 8)) :
    packFields w (fieldOp w cw) (fieldRsv w cw) (fieldF w cw) (fieldA w cw) (fieldB w cw) = cw := by
  apply BitVec.eq_of_getLsbD_eq
  intro k hk
  simp only [packFields, BitVec.getLsbD_cast, BitVec.getLsbD_append, fieldB, fieldA, fieldF, fieldRsv, fieldOp,
    BitVec.getLsbD_extractLsb', BitVec.getLsbD_ofBool]
  split
  case isTrue hB => simp [hB]
  case isFalse hB =>
    split
    case isTrue hA => rw [decide_eq_true hA, Bool.true_and, show w + (k - w) = k by omega]
    case isFalse hA =>
      split
      case isTrue hF => rw [decide_eq_true (by omega), Bool.true_and, show k = 2 * w by omega]
      case isFalse hF =>
        split
        case isTrue hR =>
          rw [decide_eq_true hR, Bool.true_and, show 2 * w + 1 + (k - w - w - 1) = k by omega]
        case isFalse hR =>
          rw [decide_eq_true (by omega), Bool.true_and, show 2 * w + 4 + (k - w - w - 1 - 3) = k by omega]

@[simp] theorem fieldRsv_encodeAt (w : Nat) (i : Instr) : fieldRsv w (encodeAt w i) = 0#3 := by
  cases i <;> exact fieldRsv_packFields ..

@[simp] theorem fieldOp_encodeAt (w : Nat) (i : Instr) : fieldOp w (encodeAt w i) = i.opcode := by
  cases i <;> exact fieldOp_packFields ..

/-! Operands and their two's complement fields (R56). -/

theorem inSpeedRange_iff {w : Nat} {a : Int} :
    inSpeedRange w a = true ↔ -(2 ^ (w - 1) : Int) ≤ a ∧ a < (2 ^ (w - 1) : Int) := by
  simp [inSpeedRange]

theorem toInt_ofInt_of_inSpeedRange {w : Nat} (hw : 0 < w) {a : Int} (ha : inSpeedRange w a = true) :
    (BitVec.ofInt w a).toInt = a := by
  obtain ⟨hlow, hhigh⟩ := inSpeedRange_iff.mp ha
  exact BitVec.toInt_ofInt_eq_self hw hlow hhigh

theorem inSpeedRange_toInt {w : Nat} (x : BitVec w) : inSpeedRange w x.toInt = true :=
  inSpeedRange_iff.mpr ⟨x.le_toInt, x.toInt_lt⟩

theorem readsOperands_encodeAt {w : Nat} (hw : 0 < w) {i : Instr} (hi : i.wellFormedAt w = true) :
    i.ReadsOperands w (encodeAt w i) := by
  cases i with
  | setfwd a b | setbwd a b =>
    obtain ⟨ha, hb⟩ : inSpeedRange w a = true ∧ inSpeedRange w b = true := by simpa [Instr.wellFormedAt] using hi
    simp [Instr.ReadsOperands, encodeAt, packWord, toInt_ofInt_of_inSpeedRange hw, ha, hb]
  | settl a | settr a =>
    have ha : inSpeedRange w a = true := hi
    simp [Instr.ReadsOperands, encodeAt, packWord, toInt_ofInt_of_inSpeedRange hw, ha]
  | stop => trivial
  | shield f => exact fieldF_packFields ..

/-- Settles O6. An encoding has zero reserved bits and its command's opcode, and its operand fields hold the operands, which
is all that the decoder asks (`decodeAt_eq_ok_iff`). -/
theorem decodeInvertsEncodeAtEveryWidth : Obligations.DecodeInvertsEncodeAtEveryWidth := by
  intro w i hw hi
  exact decodeAt_eq_ok_iff.mpr ⟨fieldRsv_encodeAt w i, fieldOp_encodeAt w i, readsOperands_encodeAt hw hi⟩

theorem wellFormedAt_of_readsOperands {w : Nat} {cw : BitVec (2 * w + 8)} {i : Instr} (h : i.ReadsOperands w cw) :
    i.wellFormedAt w = true := by
  cases i with
  | setfwd a b | setbwd a b =>
    obtain ⟨rfl, rfl⟩ := h
    simp [Instr.wellFormedAt, inSpeedRange_toInt]
  | settl a | settr a =>
    obtain rfl := h
    exact inSpeedRange_toInt _
  | stop | shield f => rfl

/-- The encoding of a command packs the fields it uses of any word it is read from, and zeros (R60, R63). -/
theorem encodeAt_of_readsOperands {w : Nat} {cw : BitVec (2 * w + 8)} {i : Instr} (hrsv : fieldRsv w cw = 0#3)
    (hop : fieldOp w cw = i.opcode) (h : i.ReadsOperands w cw) : encodeAt w i = cw &&& i.usedMaskAt w := by
  rw [← packFields_fields cw, hrsv, hop]
  cases i with
  | setfwd a b | setbwd a b =>
    obtain ⟨rfl, rfl⟩ := h
    simp [encodeAt, packWord, Instr.usedMaskAt, packFields_and, Instr.opcode]
  | settl a | settr a =>
    obtain rfl := h
    simp [encodeAt, packWord, Instr.usedMaskAt, packFields_and, Instr.opcode]
  | stop => simp [encodeAt, packWord, Instr.usedMaskAt, packFields_and, Instr.opcode]
  | shield f =>
    obtain rfl := h
    simp [encodeAt, packWord, Instr.usedMaskAt, packFields_and, Instr.opcode]

/-- Settles O7: the command's operands are the values of the fields it is read from (`decodeAt_eq_ok_iff`), so they are in
range, and encoding them writes those fields back. -/
theorem decodedCommandReencodes : Obligations.DecodedCommandReencodes := by
  intro w cw i hdec
  obtain ⟨hrsv, hop, hread⟩ := decodeAt_eq_ok_iff.mp hdec
  exact ⟨wellFormedAt_of_readsOperands hread, encodeAt_of_readsOperands hrsv hop hread⟩

/-! The opcode table's match and mask (R66). -/

/-- The command of the same opcode whose operands are the fields of a word. -/
def Instr.rereadFrom (w : Nat) (cw : BitVec (2 * w + 8)) : Instr → Instr
  | .setfwd _ _ => .setfwd (fieldA w cw).toInt (fieldB w cw).toInt
  | .setbwd _ _ => .setbwd (fieldA w cw).toInt (fieldB w cw).toInt
  | .settl _ => .settl (fieldA w cw).toInt
  | .settr _ => .settr (fieldA w cw).toInt
  | .stop => .stop
  | .shield _ => .shield (fieldF w cw)

theorem opcode_rereadFrom {w : Nat} (cw : BitVec (2 * w + 8)) (i : Instr) : (i.rereadFrom w cw).opcode = i.opcode := by
  cases i <;> rfl

theorem readsOperands_rereadFrom {w : Nat} (cw : BitVec (2 * w + 8)) (i : Instr) :
    (i.rereadFrom w cw).ReadsOperands w cw := by
  cases i <;> simp [Instr.rereadFrom, Instr.ReadsOperands]

theorem decodeAt_rereadFrom {w : Nat} {cw : BitVec (2 * w + 8)} {i : Instr} (hrsv : fieldRsv w cw = 0#3)
    (hop : fieldOp w cw = i.opcode) : decodeAt w cw = .ok (i.rereadFrom w cw) :=
  decodeAt_eq_ok_iff.mpr ⟨hrsv, hop.trans (opcode_rereadFrom cw i).symm, readsOperands_rereadFrom cw i⟩

theorem matchMask_eq_packFields : matchMask = packFields 32 0xF#4 0b111#3 false 0#32 0#32 := by decide

theorem matchWord_eq_packFields (i : Instr) : i.matchWord = packFields 32 i.opcode 0#3 false 0#32 0#32 :=
  have hshift : ∀ op : BitVec 4, op.setWidth 72 <<< 68 = packFields 32 op 0#3 false 0#32 0#32 := by decide
  hshift i.opcode

/-- A word matches a command's row of the opcode table exactly when it has the command's opcode and no reserved bits. -/
theorem and_matchMask_eq_matchWord_iff (cw : CW) (i : Instr) :
    cw &&& matchMask = i.matchWord ↔ fieldRsv 32 cw = 0#3 ∧ fieldOp 32 cw = i.opcode := by
  have hmasked : cw &&& matchMask = packFields 32 (fieldOp 32 cw) (fieldRsv 32 cw) false 0#32 0#32 :=
    calc cw &&& matchMask
      _ = packFields 32 (fieldOp 32 cw) (fieldRsv 32 cw) (fieldF 32 cw) (fieldA 32 cw) (fieldB 32 cw) &&&
            packFields 32 0xF#4 0b111#3 false 0#32 0#32 := by rw [packFields_fields, matchMask_eq_packFields]
      _ = packFields 32 (fieldOp 32 cw &&& BitVec.allOnes 4) (fieldRsv 32 cw &&& BitVec.allOnes 3) (fieldF 32 cw && false)
            (fieldA 32 cw &&& 0#32) (fieldB 32 cw &&& 0#32) := packFields_and ..
      _ = packFields 32 (fieldOp 32 cw) (fieldRsv 32 cw) false 0#32 0#32 := by
            rw [BitVec.and_allOnes, BitVec.and_allOnes, Bool.and_false, BitVec.and_zero, BitVec.and_zero]
  rw [hmasked, matchWord_eq_packFields]
  constructor
  · intro h
    have hrsv := congrArg (fieldRsv 32) h
    have hop := congrArg (fieldOp 32) h
    rw [fieldRsv_packFields, fieldRsv_packFields] at hrsv
    rw [fieldOp_packFields, fieldOp_packFields] at hop
    exact ⟨hrsv, hop⟩
  · rintro ⟨hrsv, hop⟩
    rw [hrsv, hop]

/-- Settles O10: to match a command's row is to carry its opcode and no reserved bits (`and_matchMask_eq_matchWord_iff`), and
such a word is read as a command of that opcode (`decodeAt_rereadFrom`). -/
theorem wordsMatchTheOpcodeTable : Obligations.WordsMatchTheOpcodeTable := by
  constructor
  · intro cw i hdec
    obtain ⟨hrsv, hop, -⟩ := decodeAt_eq_ok_iff.mp hdec
    exact (and_matchMask_eq_matchWord_iff cw i).mpr ⟨hrsv, hop⟩
  · intro cw j hmatch
    obtain ⟨hrsv, hop⟩ := (and_matchMask_eq_matchWord_iff cw j).mp hmatch
    have hdec : decode cw = .ok (j.rereadFrom 32 cw) := decodeAt_rereadFrom (w := 32) hrsv hop
    exact ⟨_, hdec, opcode_rereadFrom (w := 32) cw j⟩

/-- Settles O11: eight closed words, decoded (R65). -/
theorem specExampleWordsDecode : Obligations.SpecExampleWordsDecode := by
  unfold Obligations.SpecExampleWordsDecode
  decide

end Sys2Proof

/-! The assembler keeps to the range of its operands (R62). -/

namespace Sys2Proof.Machine

theorem inSpeedRange_of_parseSpeed {w : Nat} {l : List Char} {a : Int} (h : parseSpeed w l = .ok a) :
    inSpeedRange w a = true := by
  unfold parseSpeed at h
  split at h
  · cases h
  · split at h
    case isTrue hrange => cases h; exact hrange
    case isFalse => cases h

theorem assemblePair_inRange {w : Nat} {mk : Int → Int → Instr} {ops : List (List Char)} {i : Instr}
    (h : assemblePair w mk ops = .ok i) :
    ∃ a b, i = mk a b ∧ inSpeedRange w a = true ∧ inSpeedRange w b = true := by
  unfold assemblePair at h
  split at h
  · split at h
    next a b ha hb => cases h; exact ⟨a, b, rfl, inSpeedRange_of_parseSpeed ha, inSpeedRange_of_parseSpeed hb⟩
    all_goals cases h
  · cases h

theorem assembleTurn_inRange {w : Nat} {mk : Int → Instr} {ops : List (List Char)} {i : Instr}
    (h : assembleTurn w mk ops = .ok i) : ∃ a, i = mk a ∧ inSpeedRange w a = true := by
  unfold assembleTurn at h
  split at h
  · split at h
    next a ha => cases h; exact ⟨a, rfl, inSpeedRange_of_parseSpeed ha⟩
    all_goals cases h
  · cases h

theorem assembleStop_eq_stop {ops : List (List Char)} {i : Instr} (h : assembleStop ops = .ok i) : i = .stop := by
  unfold assembleStop at h
  split at h <;> cases h
  rfl

theorem assembleShield_eq_shield {ops : List (List Char)} {i : Instr} (h : assembleShield ops = .ok i) :
    ∃ f, i = .shield f := by
  unfold assembleShield at h
  split at h
  · split at h <;> cases h
    exact ⟨_, rfl⟩
  · cases h

/-- An assembled line gives a command in range, whichever of the six mnemonics it starts with (R62). -/
theorem assemble_wellFormedAt {w : Nat} {line : List Char} {i : Instr} (h : assemble w line = .ok i) :
    i.wellFormedAt w = true := by
  unfold assemble at h
  dsimp only at h
  split at h
  case h_1 | h_8 => cases h
  case h_2 | h_3 =>
    obtain ⟨a, b, rfl, ha, hb⟩ := assemblePair_inRange h
    simp [Instr.wellFormedAt, ha, hb]
  case h_4 | h_5 =>
    obtain ⟨a, rfl, ha⟩ := assembleTurn_inRange h
    exact ha
  case h_6 =>
    obtain rfl := assembleStop_eq_stop h
    rfl
  case h_7 =>
    obtain ⟨f, rfl⟩ := assembleShield_eq_shield h
    rfl

theorem assembleWord_eq_ok_iff {w : Nat} {line : List Char} {cw : BitVec (2 * w + 8)} :
    assembleWord w line = .ok cw ↔ ∃ i, assemble w line = .ok i ∧ encodeAt w i = cw := by
  cases h : assemble w line <;> simp [assembleWord, h]

/-- Settles O12: the line's command is in range (`assemble_wellFormedAt`), so its encoding decodes back (O6). -/
theorem assembledWordDecodesBack : Obligations.AssembledWordDecodesBack := by
  intro w line cw hw hline
  obtain ⟨i, hi, rfl⟩ := assembleWord_eq_ok_iff.mp hline
  have hwf := assemble_wellFormedAt hi
  exact ⟨i, hi, hwf, rfl, decodeInvertsEncodeAtEveryWidth w i hw hwf⟩

end Sys2Proof.Machine

/-! The duty mapper (R100 to R104). -/

namespace Sys2Proof.Machine

section DutyMapper

variable {c : Config} {x : Int}

theorem clampAndMap_of_nonpos (hmax : 0 ≤ c.speedMax) (hx : x ≤ 0) : clampAndMap c x = c.dutyOffset := by
  unfold clampAndMap clamp
  omega

theorem clampAndMap_of_mem (hx : 0 ≤ x) (hmax : x ≤ c.speedMax) : clampAndMap c x = x + c.dutyOffset := by
  unfold clampAndMap clamp
  omega

/-- A speed of at least SPEED_MAX, or any speed where SPEED_MAX is negative, is clamped to SPEED_MAX. -/
theorem clampAndMap_of_speedMax_le (hx : c.speedMax ≤ max x 0) : clampAndMap c x = c.speedMax + c.dutyOffset := by
  unfold clampAndMap clamp
  omega

end DutyMapper

/-- Settles O27, one lemma for each piece. -/
theorem clampAndMapIsPiecewise : Obligations.ClampAndMapIsPiecewise := by
  intro c x
  refine ⟨fun hmax => ⟨clampAndMap_of_nonpos hmax, clampAndMap_of_mem, fun hx => ?_⟩, fun hmax => ?_,
    fun hmax hoffset => ⟨fun hx => ?_, fun h0 hx => ?_, fun hx => ?_⟩⟩
  · exact clampAndMap_of_speedMax_le (by omega)
  · exact clampAndMap_of_speedMax_le (by omega)
  · rw [clampAndMap_of_nonpos (by omega) hx, hoffset]
  · rw [clampAndMap_of_mem h0 (by omega), hoffset]
  · rw [clampAndMap_of_speedMax_le (by omega), hmax, hoffset]
    rfl

theorem clampAndMap_mono (c : Config) {x y : Int} (h : x ≤ y) : clampAndMap c x ≤ clampAndMap c y := by
  unfold clampAndMap clamp
  omega

/-- Settles O28. The law of each range follows from the piece of R101 that holds there; a result less DUTY_OFFSET lies in the
linear range, which gives the last law. -/
theorem clampAndMapOrderLaws : Obligations.ClampAndMapOrderLaws := by
  intro c hmax
  refine ⟨fun x y => clampAndMap_mono c, fun x y hx hx' hy hy' h => ?injective, fun x y hx hy => ?below,
    fun x y hx hy => ?above, fun v hlow hhigh => ⟨v - c.dutyOffset, ?onto⟩, fun x => ?stable⟩
  case injective =>
    rw [clampAndMap_of_mem hx hx', clampAndMap_of_mem hy hy'] at h
    omega
  case below => rw [clampAndMap_of_nonpos hmax hx, clampAndMap_of_nonpos hmax hy]
  case above => rw [clampAndMap_of_speedMax_le (by omega), clampAndMap_of_speedMax_le (by omega)]
  case onto => rw [clampAndMap_of_mem (by omega) (by omega), Int.sub_add_cancel]
  case stable =>
    obtain ⟨hlow, hhigh⟩ := clampAndMap_bounds hmax x
    rw [clampAndMap_of_mem (by omega) (by omega), Int.sub_add_cancel]

/-- Settles O29: every duty has its register's width (`dutyOf_lt`), and what the register can hold it holds exactly
(`holdDuty_cast`). -/
theorem dutyRegisterHoldsClampAndMap : Obligations.DutyRegisterHoldsClampAndMap := by
  intro c x
  refine ⟨dutyOf_lt c x, holdDuty_cast, fun hfit => ?fit, fun hsource => ?source⟩
  case fit =>
    obtain ⟨hlow, hhigh⟩ := clampAndMap_bounds hfit.1 x
    exact ⟨hlow, by omega, dutyOf_cast hfit x⟩
  case source =>
    have hfit := dutiesFit_of_sourceConstants hsource
    obtain ⟨hlow, hhigh⟩ := clampAndMap_bounds hfit.1 x
    obtain ⟨hmax, hoffset, -⟩ := hsource
    exact ⟨hfit, by omega, by omega⟩

/-! The hardware form: an 11-bit clamp, and an 11-bit add that cannot carry out (R104). -/

/-- The clamped operand of the hardware form, before the add. -/
def clampHw (c : Config) (w : Nat) (s : BitVec w) : BitVec 11 :=
  if s.msb then 0#11
  else if !s.msb && decide (c.speedMax ≤ s.toNat) then BitVec.ofInt 11 c.speedMax
  else s.extractLsb' 0 11

theorem clampAndMapHw_eq (c : Config) (w : Nat) (s : BitVec w) :
    clampAndMapHw c w s = holdDuty c.dutyW (clampHw c w s + BitVec.ofInt 11 c.dutyOffset).toNat := rfl

theorem toNat_ofInt_eleven {v : Int} (h0 : 0 ≤ v) (h1 : v < 2048) : ((BitVec.ofInt 11 v).toNat : Int) = v := by
  rw [BitVec.toNat_ofInt]
  omega

theorem clampHw_toNat {c : Config} {w : Nat} (s : BitVec w) (hmax : 0 ≤ c.speedMax) (hfits : c.speedMax < 2048) :
    ((clampHw c w s).toNat : Int) = clamp c s.toInt := by
  unfold clampHw
  cases hneg : s.msb with
  | true =>
    have hlow : s.toInt < 0 := BitVec.toInt_neg_of_msb_true hneg
    simp only [if_true, clamp, BitVec.toNat_zero]
    omega
  | false =>
    rw [clamp, BitVec.toInt_eq_toNat_of_msb hneg]
    by_cases hbig : c.speedMax ≤ s.toNat
    · simp only [hbig, Bool.false_eq_true, if_false, Bool.not_false, decide_true, Bool.and_true, if_true]
      rw [toNat_ofInt_eleven hmax hfits]
      omega
    · simp only [hbig, Bool.false_eq_true, if_false, Bool.not_false, decide_false, Bool.and_false,
        BitVec.extractLsb'_toNat, Nat.shiftRight_zero]
      omega

/-- Settles O30: the hardware form's operand is the clamped speed (`clampHw_toNat`), and its sum with DUTY_OFFSET is at most
SPEED_MAX + DUTY_OFFSET, so the adder's carry is 0. -/
theorem hardwareMapperEqualsClampAndMap : Obligations.HardwareMapperEqualsClampAndMap := by
  intro c w x hmax hoffset hsum _ _
  have hclamp : ((clampHw c w x).toNat : Int) = clamp c x.toInt := clampHw_toNat x hmax (by omega)
  have hadd : ((BitVec.ofInt 11 c.dutyOffset).toNat : Int) = c.dutyOffset := toNat_ofInt_eleven hoffset (by omega)
  obtain ⟨-, hhigh⟩ := clampAndMap_bounds hmax x.toInt
  have htotal : ((clampHw c w x + BitVec.ofInt 11 c.dutyOffset).toNat : Int) = clampAndMap c x.toInt := by
    rw [BitVec.toNat_add]
    unfold clampAndMap at hhigh ⊢
    omega
  rw [clampAndMapHw_eq, htotal, dutyOf]

end Sys2Proof.Machine

/-! The direction masks (R70 to R74): each is one half of every channel, by the bit table. -/

namespace Sys2Proof

/-- The eight direction bits, in the order of BITPOS. -/
def directionBits : List (Channel × Half) :=
  [(.m1, .a), (.m1, .b), (.m2, .a), (.m2, .b), (.m3, .a), (.m3, .b), (.m4, .a), (.m4, .b)]

theorem mem_directionBits (ch : Channel) (h : Half) : (ch, h) ∈ directionBits := by
  cases ch <;> cases h <;> decide

theorem BitPos.positions_nodup (p : BitPos) : (directionBits.map fun x => p.get x.1 x.2).Nodup := p.distinct

/-- BITPOS is injective (R70). -/
theorem BitPos.get_inj (p : BitPos) {ch ch' : Channel} {h h' : Half} :
    p.get ch h = p.get ch' h' ↔ ch = ch' ∧ h = h' := by
  constructor
  · intro heq
    have := List.inj_on_of_nodup_map p.positions_nodup (mem_directionBits ch h) (mem_directionBits ch' h') heq
    simpa using this
  · rintro ⟨rfl, rfl⟩
    rfl

/-- BITPOS is surjective: eight distinct positions are all eight (R70). -/
theorem BitPos.get_surjective (p : BitPos) (k : Fin 8) : ∃ ch h, p.get ch h = k := by
  have hall : (directionBits.map fun x => p.get x.1 x.2).toFinset = Finset.univ :=
    Finset.eq_univ_of_card _ (List.toFinset_card_of_nodup p.positions_nodup)
  have hk : k ∈ (directionBits.map fun x => p.get x.1 x.2).toFinset := hall ▸ Finset.mem_univ k
  simp only [List.mem_toFinset, List.mem_map, Prod.exists] at hk
  obtain ⟨ch, h, -, heq⟩ := hk
  exact ⟨ch, h, heq⟩

/-- The other half-bridge. -/
def Half.other : Half → Half
  | .a => .b
  | .b => .a

theorem Half.eq_other_iff (h h' : Half) : h = h'.other ↔ h ≠ h' := by
  cases h <;> cases h' <;> decide

end Sys2Proof

namespace Sys2Proof.Machine

/-- The mask that selects the half `sel ch` of each channel (R73). -/
def halfMask (p : BitPos) (sel : Channel → Half) : Byte :=
  bitAt (p.get .m1 (sel .m1)) ||| bitAt (p.get .m2 (sel .m2)) ||| bitAt (p.get .m3 (sel .m3)) ||| bitAt (p.get .m4 (sel .m4))

theorem getLsbD_bitAt (j k : Fin 8) : (bitAt j).getLsbD k.val = decide (k = j) := by
  revert j k
  decide

/-- A mask of halves sets exactly the direction bits of the halves it selects. -/
theorem getLsbD_halfMask (p : BitPos) (sel : Channel → Half) (ch : Channel) (h : Half) :
    (halfMask p sel).getLsbD (p.get ch h).val = decide (h = sel ch) := by
  simp only [halfMask, BitVec.getLsbD_or, getLsbD_bitAt, p.get_inj]
  cases ch <;> simp

/-- A byte is known by its direction bits. -/
theorem byte_eq_of_direction_bits (p : BitPos) {x y : Byte}
    (h : ∀ ch half, x.getLsbD (p.get ch half).val = y.getLsbD (p.get ch half).val) : x = y := by
  apply BitVec.eq_of_getLsbD_eq
  intro k hk
  obtain ⟨ch, half, hpos⟩ := p.get_surjective ⟨k, hk⟩
  have hbit := h ch half
  rwa [hpos] at hbit

/-- Selecting the other half of every channel gives the complement. -/
theorem halfMask_other (p : BitPos) (sel : Channel → Half) :
    halfMask p (fun ch => (sel ch).other) = ~~~ halfMask p sel := by
  apply byte_eq_of_direction_bits p
  intro ch half
  have hk : (p.get ch half).val < 8 := (p.get ch half).isLt
  simp only [BitVec.getLsbD_not, getLsbD_halfMask, Half.eq_other_iff, ne_eq, decide_not, hk, decide_true, Bool.true_and]

theorem halfMask_inj (p : BitPos) {sel sel' : Channel → Half} : halfMask p sel = halfMask p sel' ↔ ∀ ch, sel ch = sel' ch := by
  constructor
  · intro heq ch
    have hbit := congrArg (fun m : Byte => m.getLsbD (p.get ch (sel ch)).val) heq
    simpa only [getLsbD_halfMask, decide_true, true_eq_decide_iff] using hbit
  · intro heq
    rw [funext heq]

/-- The positions a mask of halves sets. -/
def selectedPositions (p : BitPos) (sel : Channel → Half) : List Nat := Channel.all.map fun ch => (p.get ch (sel ch)).val

theorem selectedPositions_nodup (p : BitPos) (sel : Channel → Half) : (selectedPositions p sel).Nodup := by
  simp [selectedPositions, Channel.all, ← Fin.ext_iff, p.get_inj]

theorem mem_selectedPositions (p : BitPos) (sel : Channel → Half) (k : Nat) :
    k ∈ selectedPositions p sel ↔ k < 8 ∧ (halfMask p sel).getLsbD k = true := by
  constructor
  · intro hk
    obtain ⟨ch, -, rfl⟩ := List.mem_map.mp hk
    exact ⟨(p.get ch (sel ch)).isLt, by simp [getLsbD_halfMask]⟩
  · rintro ⟨hlt, hbit⟩
    obtain ⟨ch, half, hpos⟩ := p.get_surjective ⟨k, hlt⟩
    obtain rfl : (p.get ch half).val = k := congrArg Fin.val hpos
    rw [getLsbD_halfMask, decide_eq_true_iff] at hbit
    subst hbit
    exact List.mem_map.mpr ⟨ch, by cases ch <;> decide, rfl⟩

/-- A mask of halves has four bits, one for each channel: the positions it sets are four distinct ones. -/
theorem popcount_halfMask (p : BitPos) (sel : Channel → Half) : popcount (halfMask p sel) = 4 := by
  have hset : ((List.range 8).filter (halfMask p sel).getLsbD).Perm (selectedPositions p sel) := by
    rw [List.perm_ext_iff_of_nodup (List.nodup_range.filter _) (selectedPositions_nodup p sel)]
    intro k
    rw [mem_selectedPositions, List.mem_filter, List.mem_range]
  exact hset.length_eq

theorem halfMask_one_bit_per_channel (p : BitPos) (sel : Channel → Half) (ch : Channel) :
    (halfMask p sel).getLsbD (p.get ch .a).val ≠ (halfMask p sel).getLsbD (p.get ch .b).val := by
  rw [getLsbD_halfMask, getLsbD_halfMask]
  cases sel ch <;> decide

/-! The half each motion selects on each channel (R73). -/

/-- The halves of MASK_FWD. -/
def fwdHalf : Channel → Half
  | .m1 => .b
  | .m2 => .b
  | .m3 => .a
  | .m4 => .a

/-- The halves of MASK_BWD. -/
def bwdHalf (ch : Channel) : Half := (fwdHalf ch).other

theorem maskFwd_eq (p : BitPos) : maskFwd p = halfMask p fwdHalf := rfl
theorem maskBwd_eq (p : BitPos) : maskBwd p = halfMask p bwdHalf := rfl
theorem maskTl_eq (p : BitPos) : maskTl p = halfMask p fun _ => .b := rfl
theorem maskTr_eq (p : BitPos) : maskTr p = halfMask p fun _ => .a := rfl
theorem allA_eq (p : BitPos) : allA p = halfMask p fun _ => .a := rfl
theorem allB_eq (p : BitPos) : allB p = ~~~ allA p := halfMask_other p fun _ => .a

/-- Settles O31: ALL_B is the complement of ALL_A, and each is a mask of halves. -/
theorem bitTableConstantsPartition : Obligations.BitTableConstantsPartition := by
  intro p
  refine ⟨?_, ?_, popcount_halfMask p fun _ => .a, popcount_halfMask p fun _ => .b⟩
  · simp [allB_eq]
  · simp [allB_eq]

theorem popcount_zero : popcount 0x00#8 = 0 := by decide

theorem popcount_allOnes : popcount 0xFF#8 = 8 := by decide

/-- Each of the four direction masks is a mask of halves. -/
theorem exists_halfMask {p : BitPos} {m : Byte} (hm : m ∈ [maskFwd p, maskBwd p, maskTl p, maskTr p]) :
    ∃ sel, m = halfMask p sel := by
  simp only [List.mem_cons, List.not_mem_nil, or_false] at hm
  obtain rfl | rfl | rfl | rfl := hm
  · exact ⟨_, maskFwd_eq p⟩
  · exact ⟨_, maskBwd_eq p⟩
  · exact ⟨_, maskTl_eq p⟩
  · exact ⟨_, maskTr_eq p⟩

/-- Settles O32. Each mask is a mask of halves, so its laws are laws about which half it selects on each channel
(`getLsbD_halfMask`, `halfMask_other`, `halfMask_inj`). -/
theorem maskLawsHoldForEveryBitTable : Obligations.MaskLawsHoldForEveryBitTable := by
  intro p
  have hbwd : maskBwd p = ~~~ maskFwd p := halfMask_other p fwdHalf
  have htl : maskTl p = ~~~ maskTr p := halfMask_other p fun _ => .a
  refine ⟨fun m hm => ?each, ⟨?xorFwd, hbwd⟩, fun ch h => ?differ, ⟨?xorTurn, htl⟩, fun ch hch h => ?front,
    fun ch hch h => ?back, ?distinct⟩
  case each =>
    obtain ⟨sel, rfl⟩ := exists_halfMask hm
    have hcount := popcount_halfMask p sel
    refine ⟨hcount, halfMask_one_bit_per_channel p sel, fun hzero => ?_, fun hones => ?_⟩
    · simp [hzero, popcount_zero] at hcount
    · simp [hones, popcount_allOnes] at hcount
  case xorFwd => rw [hbwd, ← BitVec.not_xor_right, BitVec.xor_self]; rfl
  case differ =>
    have hk : (p.get ch h).val < 8 := (p.get ch h).isLt
    simp [hbwd, hk]
  case xorTurn => rw [htl, ← BitVec.not_xor_left, BitVec.xor_self]; rfl
  case front =>
    simp only [maskTl_eq, maskTr_eq, maskFwd_eq, maskBwd_eq, getLsbD_halfMask]
    have hb : fwdHalf ch = .b := by
      obtain rfl | rfl : ch = .m1 ∨ ch = .m2 := by simpa using hch
      all_goals rfl
    simp [bwdHalf, hb, Half.other]
  case back =>
    simp only [maskTl_eq, maskTr_eq, maskFwd_eq, maskBwd_eq, getLsbD_halfMask]
    have ha : fwdHalf ch = .a := by
      obtain rfl | rfl : ch = .m3 ∨ ch = .m4 := by simpa using hch
      all_goals rfl
    simp [bwdHalf, ha, Half.other]
  case distinct =>
    have hsel : ∀ {sel sel' : Channel → Half}, (∃ ch, sel ch ≠ sel' ch) → halfMask p sel ≠ halfMask p sel' :=
      fun ⟨ch, hch⟩ heq => hch ((halfMask_inj p).mp heq ch)
    simp only [maskFwd_eq, maskBwd_eq, maskTl_eq, maskTr_eq, List.nodup_cons, List.mem_cons, List.not_mem_nil, or_false,
      not_or, not_false_eq_true, List.nodup_nil, and_true]
    exact ⟨⟨hsel ⟨.m1, by decide⟩, hsel ⟨.m3, by decide⟩, hsel ⟨.m1, by decide⟩⟩,
      ⟨hsel ⟨.m1, by decide⟩, hsel ⟨.m3, by decide⟩⟩, hsel ⟨.m1, by decide⟩⟩

end Sys2Proof.Machine

/-! The write events (R42 to R45, R125): what each one writes, and which leave a register as it was. -/

namespace Sys2Proof.Machine

theorem Lines.get_data (l : Lines) (b : Bit) (q : Pin) :
    ({ l with data := b } : Lines).get q = if q = .data then b else l.get q := by
  cases q <;> rfl

theorem Lines.get_clk (l : Lines) (b : Bit) (q : Pin) :
    ({ l with clk := b } : Lines).get q = if q = .clk then b else l.get q := by
  cases q <;> rfl

theorem Lines.get_latch (l : Lines) (b : Bit) (q : Pin) :
    ({ l with latch := b } : Lines).get q = if q = .latch then b else l.get q := by
  cases q <;> rfl

theorem Lines.get_enN (l : Lines) (b : Bit) (q : Pin) :
    ({ l with enN := b } : Lines).get q = if q = .enN then b else l.get q := by
  cases q <;> rfl

/-- Settles O25, by the event and, for `PIN`, by its line. -/
theorem eventsWriteOnlyTheirTarget : Obligations.EventsWriteOnlyTheirTarget := by
  intro s
  refine ⟨fun ch v => ⟨_, rfl, fun ch' => ?_, fun ch' => ?_, rfl⟩, fun ch => ⟨_, rfl, fun ch' => ?_, rfl⟩, rfl,
    fun q b => ⟨_, rfl, ?_⟩⟩
  · exact PerChannel.get_set ..
  · exact PerChannel.get_set ..
  · exact PerChannel.get_set ..
  · cases q with
    | data => exact ⟨Lines.get_data s.line b, rfl, rfl⟩
    | clk => exact ⟨Lines.get_clk s.line b, rfl, rfl⟩
    | latch => exact ⟨Lines.get_latch s.line b, rfl, rfl⟩
    | enN => exact ⟨Lines.get_enN s.line b, rfl, rfl⟩

theorem shiftIn_eq (x : Byte) (d : Bit) : shiftIn x d = ((x <<< 1) ||| (if d then 0x01#8 else 0x00#8)) := by
  cases d <;> rfl

/-- Only a rising edge of CLK changes SR (R125). -/
theorem State.apply_sr_of_not_clkRise {s : State} {e : Event} (h : ¬ (e = .pin .clk true ∧ s.line.clk = false)) :
    (s.apply e).sr = s.sr := by
  cases e with
  | pin p b =>
    cases p with
    | clk => cases b <;> simp_all [apply, effect, drivePin]
    | _ => rfl
  | _ => rfl

/-- Only a rising edge of LATCH changes OUT (R125). -/
theorem State.apply_out_of_not_latchRise {s : State} {e : Event} (h : ¬ (e = .pin .latch true ∧ s.line.latch = false)) :
    (s.apply e).out = s.out := by
  cases e with
  | pin p b =>
    cases p with
    | latch => cases b <;> simp_all [apply, effect, drivePin]
    | _ => rfl
  | _ => rfl

/-- Settles O26: the two edges, and that nothing else reaches SR or OUT. -/
theorem receiverReactsToRisingEdgesOnly : Obligations.ReceiverReactsToRisingEdgesOnly := by
  intro s e
  refine ⟨?clkRise, ?latchRise, fun hclk hlatch =>
    ⟨State.apply_sr_of_not_clkRise hclk, State.apply_out_of_not_latchRise hlatch⟩⟩
  case clkRise =>
    rintro rfl hlow
    refine ⟨?_, State.apply_out_of_not_latchRise (by simp)⟩
    simp [State.apply, State.effect, State.drivePin, hlow, shiftIn_eq]
  case latchRise =>
    rintro rfl hlow
    refine ⟨?_, State.apply_sr_of_not_clkRise (by simp)⟩
    simp [State.apply, State.effect, State.drivePin, hlow]

theorem State.apply_data_of_ne {s : State} {e : Event} (h : ∀ b, e ≠ .pin .data b) : (s.apply e).line.data = s.line.data := by
  cases e with
  | pin p b =>
    cases p with
    | data => exact absurd rfl (h b)
    | _ => rfl
  | _ => rfl

theorem State.apply_clk_of_ne {s : State} {e : Event} (h : ∀ b, e ≠ .pin .clk b) : (s.apply e).line.clk = s.line.clk := by
  cases e with
  | pin p b =>
    cases p with
    | clk => exact absurd rfl (h b)
    | _ => rfl
  | _ => rfl

theorem State.apply_latch_of_ne {s : State} {e : Event} (h : ∀ b, e ≠ .pin .latch b) :
    (s.apply e).line.latch = s.line.latch := by
  cases e with
  | pin p b =>
    cases p with
    | latch => exact absurd rfl (h b)
    | _ => rfl
  | _ => rfl

theorem State.apply_enN_of_ne {s : State} {e : Event} (h : ∀ b, e ≠ .pin .enN b) :
    (s.apply e).line.enN = s.line.enN ∧ (s.apply e).shieldEn = s.shieldEn := by
  cases e with
  | pin p b =>
    cases p with
    | enN => exact absurd rfl (h b)
    | _ => exact ⟨rfl, rfl⟩
  | _ => exact ⟨rfl, rfl⟩

/-! The same for lists of events. -/

/-- A quantity that none of the events of a list changes, the list leaves as it was. -/
theorem State.applyAll_eq_of_forall {α : Type} (f : State → α) {es : List Event}
    (h : ∀ e ∈ es, ∀ s : State, f (s.apply e) = f s) (s : State) : f (s.applyAll es) = f s := by
  induction es generalizing s with
  | nil => rfl
  | cons e es ih =>
    calc f (s.applyAll (e :: es))
      _ = f (s.apply e) := ih (fun e' he' => h e' (.tail e he')) (s.apply e)
      _ = f s := h e (.head es) s

theorem State.applyAll_out_of_no_latchRise (s : State) {es : List Event} (h : Event.pin .latch true ∉ es) :
    (s.applyAll es).out = s.out :=
  applyAll_eq_of_forall State.out (fun _ he _ => apply_out_of_not_latchRise fun hrise => h (hrise.1 ▸ he)) s

theorem State.applyAll_clk_of_no_clk (s : State) {es : List Event} (h : ∀ b, Event.pin .clk b ∉ es) :
    (s.applyAll es).line.clk = s.line.clk :=
  applyAll_eq_of_forall (fun u => u.line.clk) (fun _ he _ => apply_clk_of_ne fun b hb => h b (hb ▸ he)) s

theorem State.applyAll_latch_of_no_latch (s : State) {es : List Event} (h : ∀ b, Event.pin .latch b ∉ es) :
    (s.applyAll es).line.latch = s.line.latch :=
  applyAll_eq_of_forall (fun u => u.line.latch) (fun _ he _ => apply_latch_of_ne fun b hb => h b (hb ▸ he)) s

theorem State.applyAll_enN_of_no_enN (s : State) {es : List Event} (h : ∀ b, Event.pin .enN b ∉ es) :
    (s.applyAll es).line.enN = s.line.enN ∧ (s.applyAll es).shieldEn = s.shieldEn := by
  have hkeeps : ∀ e ∈ es, ∀ u : State, (u.apply e).line.enN = u.line.enN ∧ (u.apply e).shieldEn = u.shieldEn :=
    fun e he u => apply_enN_of_ne fun b hb => h b (hb ▸ he)
  exact ⟨applyAll_eq_of_forall (fun u => u.line.enN) (fun e he u => (hkeeps e he u).1) s,
    applyAll_eq_of_forall State.shieldEn (fun e he u => (hkeeps e he u).2) s⟩

/-- One event further along a list. -/
theorem State.applyAll_take_succ (s : State) {es : List Event} {n : Nat} {e : Event} (h : es[n]? = some e) :
    s.applyAll (es.take (n + 1)) = (s.applyAll (es.take n)).apply e := by
  rw [List.take_add_one, h, applyAll_append]
  rfl

end Sys2Proof.Machine

/-! The events of a transfer (R115 to R119). -/

namespace Sys2Proof.Machine

/-- Settles O33: the eight rounds of R115's loop, where the top bit of the working copy after k shifts is bit 7-k. -/
theorem transferHasItsClosedForm : Obligations.TransferHasItsClosedForm := by
  intro m
  simp [transmit, transmitBits, bitEvents, topBit_eq, List.range_succ]

@[simp] theorem bitEvents_length (w : Byte) : (bitEvents w).length = 4 := rfl

@[simp] theorem transmitBits_length (n : Nat) (w : Byte) : (transmitBits n w).length = 4 * n := by
  induction n generalizing w with
  | zero => rfl
  | succ n ih => rw [transmitBits, List.length_append, bitEvents_length, ih]; omega

@[simp] theorem transmit_length (m : Byte) : (transmit m).length = 34 := rfl

/-- The bits of a transfer drive DATA and CLK, and hold. -/
theorem mem_transmitBits {n : Nat} {w : Byte} {e : Event} (h : e ∈ transmitBits n w) :
    (∃ b, e = .pin .data b) ∨ (∃ b, e = .pin .clk b) ∨ e = .settle := by
  induction n generalizing w with
  | zero => simp [transmitBits] at h
  | succ n ih =>
    rw [transmitBits, List.mem_append] at h
    obtain hbit | hrest := h
    · simp only [bitEvents, List.mem_cons, List.not_mem_nil, or_false] at hbit
      obtain rfl | rfl | rfl | rfl := hbit <;> simp
    · exact ih hrest

theorem latch_notMem_transmitBits (n : Nat) (w : Byte) (b : Bit) : Event.pin .latch b ∉ transmitBits n w := by
  intro h
  simpa using mem_transmitBits h

theorem enN_notMem_transmitBits (n : Nat) (w : Byte) (b : Bit) : Event.pin .enN b ∉ transmitBits n w := by
  intro h
  simpa using mem_transmitBits h

theorem transmit_take_of_pos_of_lt (m : Byte) {n : Nat} (h1 : 1 ≤ n) (h34 : n < 34) :
    (transmit m).take n = .pin .latch false :: (transmitBits 8 m).take (n - 1) := by
  obtain ⟨k, rfl⟩ := Nat.exists_eq_add_of_le' h1
  rw [transmit, List.take_succ_cons, List.take_append_of_le_length (by rw [transmitBits_length]; omega),
    Nat.add_sub_cancel]

theorem latchRise_notMem_transmit_take (m : Byte) {n : Nat} (h : n < 34) :
    Event.pin .latch true ∉ (transmit m).take n := by
  obtain rfl | hpos := Nat.eq_zero_or_pos n
  · simp
  · rw [transmit_take_of_pos_of_lt m hpos h]
    intro hmem
    obtain heq | hbits := List.mem_cons.mp hmem
    · simp at heq
    · exact latch_notMem_transmitBits 8 m true (List.mem_of_mem_take hbits)

/-- An event that each bit emits once, `n` bits emit `n` times. -/
theorem count_transmitBits {e : Event} (he : ∀ v, (bitEvents v).count e = 1) (n : Nat) (w : Byte) :
    (transmitBits n w).count e = n := by
  induction n generalizing w with
  | zero => rfl
  | succ n ih => rw [transmitBits, List.count_append, ih, he, Nat.add_comm]

theorem count_clkRise_transmitBits (n : Nat) (w : Byte) : (transmitBits n w).count (.pin .clk true) = n :=
  count_transmitBits (fun _ => rfl) n w

theorem count_clkFall_transmitBits (n : Nat) (w : Byte) : (transmitBits n w).count (.pin .clk false) = n :=
  count_transmitBits (fun _ => rfl) n w

theorem count_settle_transmitBits (n : Nat) (w : Byte) : (transmitBits n w).count .settle = n :=
  count_transmitBits (fun _ => rfl) n w

theorem count_clkRise_transmit (m : Byte) : (transmit m).count (.pin .clk true) = 8 := by
  simp [transmit, count_clkRise_transmitBits]

theorem count_settle_transmit (m : Byte) : (transmit m).count .settle = 8 := by
  simp [transmit, count_settle_transmitBits]

theorem count_latchRise_transmit (m : Byte) : (transmit m).count (.pin .latch true) = 1 := by
  simp [transmit, List.count_eq_zero_of_not_mem (latch_notMem_transmitBits 8 m true)]

/-- Settles O36. After the first event LATCH is low, and none of the bits' events drives it; the rest counts events. -/
theorem latchIsLowDuringTheTransfer : Obligations.LatchIsLowDuringTheTransfer := by
  intro s m
  have hinside : ((transmit m).drop 1).dropLast = transmitBits 8 m := List.dropLast_concat
  refine ⟨fun n h1 h34 => ?_, transmit_length m, count_latchRise_transmit m, ?_, ?_, ?_,
    count_clkRise_transmit m⟩
  · rw [transmit_take_of_pos_of_lt m h1 h34, State.applyAll_cons]
    exact State.applyAll_latch_of_no_latch _ fun b hb => latch_notMem_transmitBits 8 m b (List.mem_of_mem_take hb)
  · rw [transmit, ← List.cons_append, List.getLast?_concat]
  · rw [hinside, count_clkRise_transmitBits]
  · rw [hinside, count_clkFall_transmitBits]

/-! The clock discipline (R119). -/

theorem bitEvents_append_getElem? (w : Byte) (es : List Event) (n : Nat) : (bitEvents w ++ es)[n + 4]? = es[n]? := rfl

theorem bitEvents_append_take (w : Byte) (es : List Event) (n : Nat) :
    (bitEvents w ++ es).take (n + 4) = bitEvents w ++ es.take n := rfl

/-- A rise of CLK is followed by the hold and the fall, whatever comes after the bits. -/
theorem clkRise_followed (k : Nat) (w : Byte) (es : List Event) (hes : Event.pin .clk true ∉ es) (n : Nat)
    (h : (transmitBits k w ++ es)[n]? = some (.pin .clk true)) :
    (transmitBits k w ++ es)[n + 1]? = some .settle ∧ (transmitBits k w ++ es)[n + 2]? = some (.pin .clk false) := by
  induction k generalizing w n with
  | zero => exact absurd (List.mem_of_getElem? h) hes
  | succ k ih =>
    rw [transmitBits, List.append_assoc] at h ⊢
    match n with
    | 0 => simp [bitEvents] at h
    | 1 => exact ⟨rfl, rfl⟩
    | 2 => simp [bitEvents] at h
    | 3 => simp [bitEvents] at h
    | n + 4 => exact ih _ _ h

/-- While the bits are sent from CLK low, CLK is low at each DATA event. -/
theorem clk_low_at_data (k : Nat) (s : State) (w : Byte) (hclk : s.line.clk = false) (n : Nat) (b : Bit)
    (h : (transmitBits k w)[n]? = some (.pin .data b)) :
    (s.applyAll ((transmitBits k w).take n)).line.clk = false := by
  induction k generalizing s w n with
  | zero => simp [transmitBits] at h
  | succ k ih =>
    rw [transmitBits] at h ⊢
    match n with
    | 0 => exact hclk
    | 1 => simp [bitEvents] at h
    | 2 => simp [bitEvents] at h
    | 3 => simp [bitEvents] at h
    | n + 4 =>
      rw [bitEvents_append_take, State.applyAll_append, applyAll_bitEvents s w hclk]
      exact ih (sendBit s w) (w <<< 1) hclk n h

theorem clk_low_after_bits (k : Nat) (s : State) (w : Byte) (hclk : s.line.clk = false) :
    (s.applyAll (transmitBits k w)).line.clk = false := by
  induction k generalizing s w with
  | zero => exact hclk
  | succ k ih =>
    rw [transmitBits, State.applyAll_append, applyAll_bitEvents s w hclk]
    exact ih (sendBit s w) (w <<< 1) hclk

/-- From CLK low, CLK is low at each DATA and LATCH event of a transfer (R119). -/
theorem clk_low_at_data_or_latch (s : State) (m : Byte) (hclk : s.line.clk = false) (n : Nat) (b : Bit)
    (h : (transmit m)[n]? = some (.pin .data b) ∨ (transmit m)[n]? = some (.pin .latch b)) :
    (s.applyAll ((transmit m).take n)).line.clk = false := by
  have hlen := transmitBits_length 8 m
  match n with
  | 0 => exact hclk
  | n + 1 =>
    have hsplit : (transmit m).take (n + 1) =
        Event.pin .latch false :: (transmitBits 8 m ++ [Event.pin .latch true]).take n := rfl
    have helem : (transmit m)[n + 1]? = (transmitBits 8 m ++ [Event.pin .latch true])[n]? := rfl
    rw [helem] at h
    rw [hsplit, State.applyAll_cons]
    by_cases hin : n < 32
    · rw [List.getElem?_append_left (by omega)] at h
      rw [List.take_append_of_le_length (by omega)]
      obtain hdata | hlatch := h
      · exact clk_low_at_data 8 (s.apply (.pin .latch false)) m hclk n b hdata
      · exact absurd (List.mem_of_getElem? hlatch) (latch_notMem_transmitBits 8 m b)
    · obtain rfl : n = 32 := by
        by_contra hne
        have hnone : (transmitBits 8 m ++ [Event.pin .latch true])[n]? = none :=
          List.getElem?_eq_none (by rw [List.length_append, hlen, List.length_singleton]; omega)
        simp [hnone] at h
      rw [List.take_left' hlen]
      exact clk_low_after_bits 8 (s.apply (.pin .latch false)) m hclk

/-- Settles O37. A rise of CLK is followed by the hold and the fall (`clkRise_followed`); CLK is low at DATA and LATCH events
(`clk_low_at_data_or_latch`), so an event at CLK high, or the rise itself, is no DATA event and DATA stays. -/
theorem dataIsStableWhileClockIsHigh : Obligations.DataIsStableWhileClockIsHigh := by
  intro s m hclk
  have hlow := clk_low_at_data_or_latch s m hclk
  refine ⟨count_clkRise_transmit m, fun n hrise => ?pulse, hlow, fun n hhigh => ?stable⟩
  case pulse =>
    match n with
    | 0 => simp [transmit] at hrise
    | n + 1 => exact clkRise_followed 8 m [.pin .latch true] (by simp) n hrise
  case stable =>
    cases he : (transmit m)[n]? with
    | none =>
      have hlen := List.getElem?_eq_none_iff.mp he
      rw [List.take_of_length_le hlen, List.take_of_length_le (Nat.le_succ_of_le hlen)]
    | some e =>
      rw [State.applyAll_take_succ s he]
      refine State.apply_data_of_ne fun b hb => ?_
      subst hb
      rw [he, hlow n b (.inl he)] at hhigh
      simp at hhigh

/-! The receiver during a transfer (R120, R122, R126). -/

theorem shiftIn_topBit (x w : Byte) : shiftIn x (w.getLsbD 7) = (x <<< 1) ||| (w >>> 7) := by
  have htop : ∀ v : Byte, (BitVec.ofBool (v.getLsbD 7)).setWidth 8 = v >>> 7 := by decide
  rw [shiftIn, htop]

/-- The top `k + 1` bits of a byte are its top bit and then the top `k` of the rest. -/
theorem topBits_succ (w : Byte) {k : Nat} (hk : k < 8) :
    ((w >>> 7) <<< k) ||| ((w <<< 1) >>> (8 - k)) = w >>> (8 - (k + 1)) := by
  have hall : ∀ (v : Byte) (j : Fin 8), ((v >>> 7) <<< j.val) ||| ((v <<< 1) >>> (8 - j.val)) = v >>> (8 - (j.val + 1)) := by
    decide
  exact hall w ⟨k, hk⟩

/-- One bit shifted in and then `k` more are `k + 1` bits shifted in. -/
theorem shiftIn_then_shift (x w : Byte) {k : Nat} (hk : k < 8) :
    (shiftIn x (w.getLsbD 7) <<< k) ||| ((w <<< 1) >>> (8 - k)) = (x <<< (k + 1)) ||| (w >>> (8 - (k + 1))) := by
  rw [shiftIn_topBit, BitVec.shiftLeft_or_distrib, BitVec.or_assoc, topBits_succ w hk, ← BitVec.shiftLeft_add, Nat.add_comm]

theorem byte_ushiftRight_eight (w : Byte) : w >>> 8 = 0#8 := BitVec.ushiftRight_eq_zero le_rfl

/-- After any number of the bits' events SR has taken one bit for each rise of CLK (R126). -/
theorem sr_after_bits {j : Nat} (hj : j ≤ 8) (s : State) (w : Byte) (hclk : s.line.clk = false) {n : Nat} (hn : n ≤ 4 * j) :
    ((transmitBits j w).take n).count (.pin .clk true) ≤ j ∧
    (s.applyAll ((transmitBits j w).take n)).sr =
      (s.sr <<< ((transmitBits j w).take n).count (.pin .clk true)) |||
        (w >>> (8 - ((transmitBits j w).take n).count (.pin .clk true))) := by
  induction j generalizing s w n with
  | zero =>
    obtain rfl : n = 0 := by omega
    simp [transmitBits, byte_ushiftRight_eight]
  | succ j ih =>
    rw [transmitBits]
    match n with
    | 0 => simp [byte_ushiftRight_eight]
    | 1 => simp [bitEvents, State.apply, State.effect, State.drivePin, byte_ushiftRight_eight]
    | 2 =>
      simp [bitEvents, State.apply, State.effect, State.drivePin, hclk, topBit_eq, shiftIn_topBit, -BitVec.getLsbD_eq_getElem]
    | 3 =>
      simp [bitEvents, State.apply, State.effect, State.drivePin, hclk, topBit_eq, shiftIn_topBit, -BitVec.getLsbD_eq_getElem]
    | n + 4 =>
      obtain ⟨hcount, hsr⟩ := ih (by omega) (sendBit s w) (w <<< 1) hclk (n := n) (by omega)
      rw [bitEvents_append_take, List.count_append, State.applyAll_append, applyAll_bitEvents s w hclk, hsr,
        show (bitEvents w).count (.pin .clk true) = 1 from rfl, Nat.add_comm 1]
      exact ⟨by omega, shiftIn_then_shift s.sr w (by omega)⟩

/-- During a transfer OUT is as it was, until the last event makes it the mask (R126). -/
theorem out_after_transmit_take (s : State) (m : Byte) (hclk : s.line.clk = false) (n : Nat) :
    (s.applyAll ((transmit m).take n)).out = if n < 34 then s.out else m := by
  split
  case isTrue h => exact s.applyAll_out_of_no_latchRise (latchRise_notMem_transmit_take m h)
  case isFalse h => rw [List.take_of_length_le (by rw [transmit_length]; omega), applyAll_transmit s m hclk]

/-- Settles O34: SR by the bits (`sr_after_bits`), which the two LATCH events do not reach; OUT by `out_after_transmit_take`. -/
theorem transferLawHoldsAtEveryEvent : Obligations.TransferLawHoldsAtEveryEvent := by
  intro s m hclk
  have hend := applyAll_transmit s m hclk
  refine ⟨fun n hn => ?_, fun n hn => ?_, by rw [hend], by rw [hend]⟩
  · obtain rfl | rfl | ⟨hpos, hlt⟩ : n = 0 ∨ n = 34 ∨ (1 ≤ n ∧ n < 34) := by omega
    · simp [byte_ushiftRight_eight]
    · rw [List.take_of_length_le (by rw [transmit_length]), count_clkRise_transmit m, hend]
      simp
    · obtain ⟨-, hsr⟩ := sr_after_bits (j := 8) le_rfl (s.apply (.pin .latch false)) m hclk (n := n - 1) (by omega)
      rw [transmit_take_of_pos_of_lt m hpos hlt, State.applyAll_cons, hsr, List.count_cons]
      rfl
  · rw [out_after_transmit_take s m hclk, if_pos hn]

/-! A transfer that starts with CLK high (R122): the first rise is no edge, so the first bit is not taken. -/

/-- The first bit of a transfer from CLK high. -/
def loseBit (s : State) (w : Byte) : State :=
  { s with
    line := { s.line with data := w.getLsbD 7, clk := false }
    work := s.work <<< 1
    bitcnt := s.bitcnt + 1#4
    trace := s.trace ++ bitEvents w }

theorem applyAll_bitEvents_of_clk_high (s : State) (w : Byte) (h : s.line.clk = true) :
    s.applyAll (bitEvents w) = loseBit s w := by
  obtain ⟨cfg, duty, she, ⟨d, c, l, e⟩, mode, fault, busy, pend, post, work, bc, sr, out, dur, run, port, tr, dr⟩ := s
  subst h
  simp [loseBit, State.applyAll, bitEvents, State.apply, State.effect, State.drivePin, topBit_eq]

/-- Seven bits shifted in keep one bit of what the receiver held. -/
theorem seven_bits_eq_append (x m : Byte) :
    (x <<< 7) ||| ((m <<< 1) >>> 1) = (BitVec.ofBool (x.getLsbD 0) ++ m.extractLsb' 0 7 : BitVec 8) := by
  apply BitVec.eq_of_getLsbD_eq
  intro i hi
  have happend : (BitVec.ofBool (x.getLsbD 0) ++ m.extractLsb' 0 7 : BitVec 8).getLsbD i =
      if i < 7 then (m.extractLsb' 0 7).getLsbD i else (BitVec.ofBool (x.getLsbD 0)).getLsbD (i - 7) :=
    BitVec.getLsbD_append
  rw [happend]
  interval_cases i <;> simp

theorem getLsbD_shiftLeft_seven (m : Byte) : (m <<< 7).getLsbD 7 = m.getLsbD 0 := by
  simp

/-- What a transfer from CLK high leaves in the receiver and on the lines. -/
theorem applyAll_transmit_of_clk_high (s : State) (m : Byte) (h : s.line.clk = true) :
    (s.applyAll (transmit m)).sr = (BitVec.ofBool (s.sr.getLsbD 0) ++ m.extractLsb' 0 7 : BitVec 8) ∧
    (s.applyAll (transmit m)).out = (BitVec.ofBool (s.sr.getLsbD 0) ++ m.extractLsb' 0 7 : BitVec 8) ∧
    (s.applyAll (transmit m)).line = ⟨m.getLsbD 0, false, true, s.line.enN⟩ := by
  set u := loseBit (s.apply (.pin .latch false)) m
  set v := u.applyAll (transmitBits 7 (m <<< 1)) with hv
  have hrun : s.applyAll (transmit m) = v.apply (.pin .latch true) := by
    rw [transmit, State.applyAll_cons, State.applyAll_append, transmitBits, State.applyAll_append,
      applyAll_bitEvents_of_clk_high (s.apply (.pin .latch false)) m h]
    rfl
  have hsr : v.sr = (BitVec.ofBool (s.sr.getLsbD 0) ++ m.extractLsb' 0 7 : BitVec 8) := by
    obtain ⟨-, hbits⟩ := sr_after_bits (j := 7) (by omega) u (m <<< 1) rfl (n := 28) le_rfl
    rw [List.take_of_length_le (by rw [transmitBits_length]), count_clkRise_transmitBits] at hbits
    rw [hbits, ← seven_bits_eq_append]
    rfl
  have hline : v.line = ⟨m.getLsbD 0, false, false, s.line.enN⟩ := by
    rw [hv, applyAll_transmitBits 7 u (m <<< 1) rfl]
    simp only [sendBits, sendBit, ← BitVec.shiftLeft_add, Nat.reduceAdd, getLsbD_shiftLeft_seven]
    rfl
  rw [hrun, ← hsr]
  simp [State.apply, State.effect, State.drivePin, hline]

/-- Settles O35, by the level of CLK at the start. -/
theorem transferEndState : Obligations.TransferEndState := by
  intro s m
  refine ⟨?_, fun hclk _ => by rw [applyAll_transmit s m hclk]⟩
  cases hclk : s.line.clk with
  | false => rw [applyAll_transmit s m hclk]
  | true =>
    obtain ⟨-, -, hline⟩ := applyAll_transmit_of_clk_high s m hclk
    exact hline

/-- Settles O38. -/
theorem clockHighTransferLosesTheFirstBit : Obligations.ClockHighTransferLosesTheFirstBit := by
  intro s m hclk
  obtain ⟨hsr, hout, -⟩ := applyAll_transmit_of_clk_high s m hclk
  exact ⟨hsr, hout⟩

end Sys2Proof.Machine

/-! Steps with nothing presented are micro-steps, and a micro-step keeps what no event writes (R46). -/

namespace Sys2Proof.Machine

theorem State.microStep_fault (s : State) : s.microStep.fault = s.fault := by
  obtain ⟨-, h⟩ | ⟨e, -, h⟩ | ⟨e, rest, -, -, h⟩ := s.microStep_cases <;> simp [h]

theorem State.microStep_port (s : State) : s.microStep.port = s.port := by
  obtain ⟨-, h⟩ | ⟨e, -, h⟩ | ⟨e, rest, -, -, h⟩ := s.microStep_cases <;> simp [h]

theorem State.advance_of_noFault {s : State} (h : s.fault = .noFault) : s.advance = s.microStep := by
  simp [advance, halted, h]

theorem runSteps_succ {s t : State} (h : step s = .next t) (n : Nat) : runSteps (n + 1) s = runSteps n t := by
  have hcore : core.step s = .next t := h
  show Host.Core.run core (n + 1) s = Host.Core.run core n t
  simp only [Host.Core.run, hcore]

/-- With no move left and no fault, `n` steps are `n` micro-steps. -/
theorem runSteps_of_port_nil (n : Nat) {s : State} (hport : s.port = []) (hfault : s.fault = .noFault) :
    runSteps n s = .next (s.microSteps n) := by
  induction n generalizing s with
  | zero => rfl
  | succ n ih =>
    have hstep : step s = .next s.microStep := by rw [step_of_port_nil hport, State.advance_of_noFault hfault]
    rw [runSteps_succ hstep, ih (by rw [s.microStep_port, hport]) (by rw [s.microStep_fault, hfault]), State.microSteps]

theorem State.drain_pend (s : State) : s.drain.pend = [] := by
  by_cases h : s.pend = []
  · rw [drain_of_pend_nil h, h]
  · simp [drain_eq s h]

/-! A presented word (R46). -/

/-- Settles O1. The step gates the word, and the command it decodes to is gated already, which is the same
(`State.gate_gate`). -/
theorem stepRunsPresentedCommand : Obligations.StepRunsPresentedCommand := by
  intro s p rest i hport hrst hvalid hwaits hdec
  set u := s.withPort rest
  have htake : u.takeWord p.cw p.waits = exec i u := by
    have hdecU : decodeWord u.cfg.speedW p.cw = .ok i := hdec
    simp [State.takeWord, hdecU, hwaits]
  calc step s
    _ = u.gate (u.takeWord p.cw p.waits) := step_of_presented hport hrst hvalid
    _ = u.gate (u.perform (commandOf u.cfg i)) := by rw [htake, exec_eq_perform]
    _ = u.perform (commandOf u.cfg i) := u.gate_gate _
    _ = exec i u := (exec_eq_perform i u).symm

/-- A strobed word on a ready block is accepted, and nothing else happens (R46). -/
theorem step_of_strobe {s : State} {p : PortInput} {rest : List PortInput} {i : Instr} (hport : s.port = p :: rest)
    (hrst : p.rst = false) (hvalid : p.valid = true) (hwaits : p.waits = false)
    (hdec : decodeWord s.cfg.speedW p.cw = .ok i) (hready : s.Ready) :
    step s = .next ((s.withPort rest).accept (commandOf s.cfg i)) := by
  have hreadyU : (s.withPort rest).Ready := hready
  rw [step_of_presented hport hrst hvalid, State.gate_of_ready hreadyU]
  simp [State.takeWord, hdec, hwaits]

/-- Settles O2: the accepted state's fields. -/
theorem strobedWordIsAccepted : Obligations.StrobedWordIsAccepted := by
  intro s p rest i hport hrst hvalid hwaits hdec hready
  exact ⟨_, step_of_strobe hport hrst hvalid hwaits hdec hready, rfl, rfl⟩

/-- A word strobed on a ready block, and then nothing: acceptance, and a micro-step for each later step. -/
theorem runSteps_of_strobe {s : State} {cw : Nat} {i : Instr} (hport : s.port = [PortInput.strobe cw])
    (hdec : decodeWord s.cfg.speedW cw = .ok i) (hready : s.Ready) (n : Nat) :
    runSteps (n + 1) s = .next (((s.withPort []).accept (commandOf s.cfg i)).microSteps n) := by
  rw [runSteps_succ (step_of_strobe (p := .strobe cw) hport rfl rfl rfl hdec hready)]
  exact runSteps_of_port_nil n rfl hready.1

/-- Settles O3: fewer micro-steps than the trace is long apply that many of its events (`State.microSteps_partial`). -/
theorem microStepsEmitTraceInOrder : Obligations.MicroStepsEmitTraceInOrder := by
  intro s cw i k hport hdec hready hk
  refine ⟨_, runSteps_of_strobe hport hdec hready k, ?_⟩
  rw [State.microSteps_partial k _ (by simpa using hk)]
  simp

/-- Settles O4: as many micro-steps as the trace is long drain the accepted command, which is what its meaning does. -/
theorem microStepsRefineCommand : Obligations.MicroStepsRefineCommand := by
  intro s cw i hport hdec hready
  obtain ⟨hfault, hbusy⟩ := hready
  have hexec : exec i (s.withPort []) = .next ((s.withPort []).accept (commandOf s.cfg i)).drain :=
    exec_of_ready i hfault hbusy
  rw [runSteps_of_strobe hport hdec ⟨hfault, hbusy⟩]
  exact hexec.symm

/-- Settles O5, over everything a step can do (`step_cases`). -/
theorem everyStepAnswersANextState : Obligations.EveryStepAnswersANextState := by
  intro s
  obtain ⟨u, -, h | h | ⟨-, h⟩ | ⟨-, -, h⟩ | ⟨-, -, h⟩ | ⟨i, -, -, h | h⟩⟩ := step_cases s
  all_goals exact ⟨_, h⟩

/-! The states the commands leave (R80 to R85). -/

/-- What a command that transmits does to a state whose CLK is low: its duties, the mask sent and latched, the shield. -/
theorem State.applyAll_transmitting (s : State) (m : Byte) (d : Channel → Duty) (b : Bit) (hclk : s.line.clk = false) :
    s.applyAll (dutyWrites d ++ transmit m ++ [.pin .enN b]) = { s with
      duty := PerChannel.ofFn d
      dur := PerChannel.ofFn d
      shieldEn := !b
      line := ⟨m.getLsbD 0, false, true, b⟩
      work := 0#8
      bitcnt := s.bitcnt + 8#4
      sr := m
      out := m
      trace := s.trace ++ (dutyWrites d ++ transmit m ++ [.pin .enN b]) } := by
  have hlow : (s.applyAll (dutyWrites d)).line.clk = false := by rw [applyAll_dutyWrites]; exact hclk
  rw [applyAll_append, applyAll_append, applyAll_transmit _ m hlow, applyAll_dutyWrites, applyAll_cons, apply_enN]
  simp

/-- The same for a whole command, from its acceptance to its end. -/
theorem State.accept_transmitting_drain (s : State) {c : Command} {m : Byte} {d : Channel → Duty} {b : Bit}
    (htrace : c.trace = dutyWrites d ++ transmit m ++ [.pin .enN b]) (hload : c.load = some m) (hclk : s.line.clk = false) :
    (s.accept c).drain = { s with
      duty := PerChannel.ofFn d
      dur := PerChannel.ofFn d
      shieldEn := !b
      line := ⟨m.getLsbD 0, false, true, b⟩
      mode := c.post.getD s.mode
      busy := false
      pend := []
      post := none
      work := 0#8
      bitcnt := 8#4
      sr := m
      out := m
      trace := s.trace ++ (dutyWrites d ++ transmit m ++ [.pin .enN b]) } := by
  have hlow : (s.accept c).line.clk = false := hclk
  rw [accept_drain _ _ (by simp [htrace]), htrace, applyAll_transmitting _ _ _ _ hlow]
  simp [finish, withPend, accept, hload]

/-- A motion command on a block whose CLK is low (R77). -/
theorem State.accept_motion_drain (s : State) (m : Byte) (d : Channel → Duty) (mode : Mode) (hclk : s.line.clk = false) :
    (s.accept (motion m d mode)).drain = s.afterMotion m d mode :=
  s.accept_transmitting_drain (c := motion m d mode) (b := false) rfl rfl hclk

theorem pairDuty_eq (c : Config) (a b : Int) :
    pairDuty c a b = fun ch => dutyOf c (if c.leftGroup.contains ch then a else b) := by
  funext ch
  rw [pairDuty, apply_ite (dutyOf c)]

/-- Settles O13, by `State.accept_motion_drain`. -/
theorem pairCommandResult : Obligations.PairCommandResult := by
  intro s a b hready hclk
  obtain ⟨hfault, hbusy⟩ := hready
  rw [← pairDuty_eq, exec_of_ready _ hfault hbusy, exec_of_ready _ hfault hbusy]
  exact ⟨congrArg _ (s.accept_motion_drain _ _ _ hclk), congrArg _ (s.accept_motion_drain _ _ _ hclk)⟩

/-- Settles O14, by `State.accept_motion_drain`. -/
theorem turnCommandResult : Obligations.TurnCommandResult := by
  intro s a hready hclk
  obtain ⟨hfault, hbusy⟩ := hready
  rw [exec_of_ready _ hfault hbusy, exec_of_ready _ hfault hbusy]
  exact ⟨congrArg _ (s.accept_motion_drain _ _ _ hclk), congrArg _ (s.accept_motion_drain _ _ _ hclk)⟩

theorem minimumDuty_of_sourceConstants {c : Config} (h : c.SourceConstants) :
    PerChannel.minimumDuty c = ⟨1000, 1000, 1000, 1000⟩ := by
  have hcast := dutyOf_cast (dutiesFit_of_sourceConstants h) 0
  rw [clampAndMap_zero_of_sourceConstants h] at hcast
  have hduty : dutyOf c 0 = 1000 := by exact_mod_cast hcast
  rw [PerChannel.minimumDuty, hduty]

theorem stopCommand_of_none {c : Config} (h : c.stopTx = .none) :
    stopCommand c = ⟨dutyWrites (fun _ => dutyOf c 0) ++ [.pin .enN true], none, some .stopped⟩ := by
  rw [stopCommand, h]
  rfl

theorem stopCommand_of_zero {c : Config} (h : c.stopTx = .zero) :
    stopCommand c =
      ⟨dutyWrites (fun _ => dutyOf c 0) ++ transmit 0x00#8 ++ [.pin .enN true], some 0x00#8, some .stopped⟩ := by
  rw [stopCommand, h]
  rfl

/-- Settles O15, by the value of STOP_TX. -/
theorem stopResult : Obligations.StopResult := by
  rintro s ⟨hfault, hbusy⟩
  rw [exec_of_ready .stop hfault hbusy, commandOf]
  refine ⟨fun hnone => congrArg _ ?none, fun hzero hclk => congrArg _ ?zero, minimumDuty_of_sourceConstants⟩
  case none =>
    rw [stopCommand_of_none hnone, State.accept_drain _ _ (by simp), State.applyAll_append, applyAll_dutyWrites,
      State.applyAll_cons, State.apply_enN]
    simp [State.finish, State.withPend, State.accept]
  case zero =>
    have hstop := stopCommand_of_zero hzero
    rw [s.accept_transmitting_drain (congrArg Command.trace hstop) (congrArg Command.load hstop) hclk, hstop]
    simp

/-- Settles O16: the one event of `SHIELD`. -/
theorem shieldResult : Obligations.ShieldResult := by
  rintro s f ⟨hfault, hbusy⟩
  rw [exec_of_ready (.shield f) hfault hbusy, State.accept_drain _ _ (commandOf_trace_ne_nil s.cfg (.shield f))]
  simp [commandOf, shieldCommand, State.apply_enN, State.finish, State.withPend, State.accept]

/-! The lengths of the traces (R172). -/

theorem length_dutyWrites (d : Channel → Duty) : (dutyWrites d).length = 4 := rfl

theorem count_settle_dutyWrites (d : Channel → Duty) : (dutyWrites d).count .settle = 0 := rfl

/-- A command that transmits has four duty writes, a transfer and the write of EN_N. -/
theorem commandOf_transmits {c : Config} {i : Instr} {m : Byte} (h : maskSent c i = some m) :
    ∃ d, dutyEvents c i = dutyWrites d ∧
      (commandOf c i).trace = dutyWrites d ++ transmit m ++ [.pin .enN (!shieldAfter i)] := by
  have hserial : serialEvents c i = transmit m := by simp [serialEvents, h]
  rw [commandOf_trace, hserial]
  cases i with
  | shield f => simp [maskSent] at h
  | _ => exact ⟨_, rfl, rfl⟩

theorem transmitting_counts {c : Config} {i : Instr} {m : Byte} (h : maskSent c i = some m) :
    (commandOf c i).trace.length = 39 ∧ (commandOf c i).trace.count .settle = 8 := by
  obtain ⟨d, -, htrace⟩ := commandOf_transmits h
  simp [htrace, length_dutyWrites, count_settle_dutyWrites, count_settle_transmit]

/-- The four motion commands have one form (R77). -/
theorem commandOf_eq_motion (c : Config) {i : Instr} (hi : isMotion i = true) :
    ∃ m d mode, maskSent c i = some m ∧ commandOf c i = motion m d mode ∧
      ∀ old, dutyAfter c old i = PerChannel.ofFn d := by
  cases i with
  | stop | shield f => simp [isMotion] at hi
  | _ => exact ⟨_, _, _, rfl, rfl, fun _ => rfl⟩

/-- Settles O21: a command that transmits has 39 events and 8 holds (`transmitting_counts`); the other traces are short. -/
theorem eventCountsAreAsListed : Obligations.EventCountsAreAsListed := by
  intro c
  refine ⟨⟨rfl, rfl⟩, fun i hi => ?motion, fun hnone => ?stopNone, fun hzero => ?stopZero, fun f => ⟨rfl, rfl⟩⟩
  case motion =>
    obtain ⟨m, -, -, hm, -⟩ := commandOf_eq_motion c hi
    obtain ⟨hlength, hcount⟩ := transmitting_counts hm
    exact ⟨hlength, hcount, by rw [minDuration, hcount]⟩
  case stopNone =>
    have htrace : (commandOf c .stop).trace = dutyWrites (stopDuty c) ++ [.pin .enN true] := by
      rw [commandOf, stopCommand_of_none hnone]
      rfl
    rw [htrace]
    exact ⟨rfl, rfl⟩
  case stopZero => exact transmitting_counts (m := 0x00#8) (by simp [maskSent, hzero])

end Sys2Proof.Machine

/-! OUT, the shield and the duties while a command is in flight (R122, R166). -/

namespace Sys2Proof.Machine

/-- OUT after any number of micro-steps is OUT after as many of the pending events. -/
theorem State.microSteps_out (s : State) (n : Nat) : (s.microSteps n).out = (s.applyAll (s.pend.take n)).out := by
  by_cases hn : n < s.pend.length
  · rw [microSteps_partial n s hn, withPend_out]
  · rw [microSteps_past s n (by omega), List.take_of_length_le (by omega)]
    by_cases hp : s.pend = []
    · rw [drain_of_pend_nil hp, hp, applyAll_nil]
    · rw [drain_eq s hp, finish_out, withPend_out]

theorem pin_notMem_dutyWrites (d : Channel → Duty) (p : Pin) (b : Bit) : Event.pin p b ∉ dutyWrites d := by
  simp [dutyWrites]

/-- Of a command that transmits, the 38th event, the latch edge, brings the mask to OUT; no other event changes OUT. -/
theorem out_after_events {c : Config} {i : Instr} {m : Byte} (hm : maskSent c i = some m) (s : State)
    (hclk : s.line.clk = false) (n : Nat) :
    (s.applyAll ((commandOf c i).trace.take n)).out = if n < 38 then s.out else m := by
  obtain ⟨d, -, htrace⟩ := commandOf_transmits hm
  have hsplit : (commandOf c i).trace.take n =
      (dutyWrites d).take n ++ (transmit m).take (n - 4) ++ [Event.pin .enN (!shieldAfter i)].take (n - 38) := by
    rw [htrace, List.take_append, List.take_append, List.length_append, length_dutyWrites, transmit_length]
  set u := s.applyAll ((dutyWrites d).take n) with hu
  have hout : u.out = s.out :=
    s.applyAll_out_of_no_latchRise fun h => pin_notMem_dutyWrites d _ _ (List.mem_of_mem_take h)
  have hlow : u.line.clk = false := by
    rw [hu, s.applyAll_clk_of_no_clk fun b h => pin_notMem_dutyWrites d _ b (List.mem_of_mem_take h), hclk]
  have hlast : Event.pin .latch true ∉ [Event.pin .enN (!shieldAfter i)].take (n - 38) := fun h => by
    simpa using List.mem_of_mem_take h
  rw [hsplit, State.applyAll_append, State.applyAll_append, State.applyAll_out_of_no_latchRise _ hlast, ← hu,
    out_after_transmit_take u m hlow, hout]
  exact if_congr (by omega) rfl rfl

/-- A command that transmits nothing leaves OUT as it was at each of its events. -/
theorem out_after_events_of_none {c : Config} {i : Instr} (hm : maskSent c i = none) (s : State) (n : Nat) :
    (s.applyAll ((commandOf c i).trace.take n)).out = s.out := by
  refine s.applyAll_out_of_no_latchRise fun h => ?_
  have hmem := List.mem_of_mem_take h
  rw [commandOf_trace, serialEvents, hm] at hmem
  cases i <;> simp [dutyEvents, dutyWrites] at hmem

theorem exec_motion {s : State} {i : Instr} {m : Byte} {d : Channel → Duty} {mode : Mode}
    (hcommand : commandOf s.cfg i = motion m d mode) (hready : s.Ready) (hclk : s.line.clk = false) :
    exec i s = .next (s.afterMotion m d mode) := by
  obtain ⟨hfault, hbusy⟩ := hready
  rw [exec_of_ready i hfault hbusy, hcommand, s.accept_motion_drain m d mode hclk]

theorem enN_notMem_motion (m : Byte) (d : Channel → Duty) (b : Bit) : Event.pin .enN b ∉ dutyWrites d ++ transmit m := by
  intro h
  obtain hduty | hserial := List.mem_append.mp h
  · exact pin_notMem_dutyWrites d .enN b hduty
  · simp only [transmit, List.mem_cons, List.mem_append, List.not_mem_nil, or_false] at hserial
    obtain hlow | hbits | hhigh := hserial
    · simp at hlow
    · exact enN_notMem_transmitBits 8 m b hbits
    · simp at hhigh

/-- Settles O20. Both runs leave the state of R77; in the second OUT holds the mask already, before the latch edge and after
it (`out_after_events`). -/
theorem motionCommandsAreIdempotent : Obligations.MotionCommandsAreIdempotent := by
  intro s i hi hready hclk
  obtain ⟨m, d, mode, hm, hcommand, -⟩ := commandOf_eq_motion s.cfg hi
  set t := s.afterMotion m d mode with ht
  have hreadyT : t.Ready := ⟨hready.1, rfl⟩
  refine ⟨t, t.afterMotion m d mode, (motion m d mode).trace, exec_motion hcommand hready hclk,
    exec_motion hcommand hreadyT rfl, rfl, rfl, rfl, rfl, rfl, rfl, ?_, fun n => ?_⟩
  · intro h
    obtain hwrites | hlast := List.mem_append.mp h
    · exact enN_notMem_motion m d true hwrites
    · simp at hlast
  · have hkept := out_after_events hm (t.accept (commandOf t.cfg i)) rfl n
    have hmask : (t.accept (commandOf t.cfg i)).out = m := rfl
    rw [State.microSteps_out, State.accept_pend]
    rw [hmask, ite_self] at hkept
    exact hkept

/-- Before its last event a motion command has not driven the shield. -/
theorem motion_trace_take {m : Byte} {d : Channel → Duty} {mode : Mode} {n : Nat} (hn : n ≤ 38) :
    (motion m d mode).trace.take n = (dutyWrites d ++ transmit m).take n :=
  List.take_append_of_le_length (by rw [List.length_append, length_dutyWrites, transmit_length]; omega)

theorem pwmSet_notMem_transmit (m : Byte) (ch : Channel) (v : Duty) : Event.pwmSet ch v ∉ transmit m := by
  simp [transmit, transmitBits, bitEvents]

/-- From its fourth event on, a command that writes duties has written them all. -/
theorem duties_after_four (s : State) (d : Channel → Duty) (m : Byte) {n : Nat} (hn : 4 ≤ n) :
    (s.applyAll ((dutyWrites d ++ transmit m).take n)).duty = PerChannel.ofFn d ∧
      (s.applyAll ((dutyWrites d ++ transmit m).take n)).dur = PerChannel.ofFn d := by
  rw [List.take_append, List.take_of_length_le (by rw [length_dutyWrites]; exact hn), State.applyAll_append]
  obtain ⟨hduty, hdur⟩ := (s.applyAll (dutyWrites d)).applyAll_duties_of_no_pwmSet
    (es := (transmit m).take (n - (dutyWrites d).length)) fun ch v h => pwmSet_notMem_transmit m ch v (List.mem_of_mem_take h)
  rw [hduty, hdur, applyAll_dutyWrites]
  exact ⟨rfl, rfl⟩

/-- Settles O22: the state after `n` micro-steps has had the first `n` events (`State.microSteps_partial`), none of which is the
write of EN_N, and after four the duties are written. -/
theorem newDutiesPrecedeNewDirection : Obligations.NewDutiesPrecedeNewDirection := by
  intro s cw i m n hport hdec hi hm hready hclk hn
  obtain ⟨m', d, mode, hm', hcommand, hduties⟩ := commandOf_eq_motion s.cfg hi
  obtain rfl : m' = m := Option.some_inj.mp (hm'.symm.trans hm)
  refine ⟨_, runSteps_of_strobe hport hdec hready n, ?_⟩
  set u := (s.withPort []).accept (commandOf s.cfg i) with hu
  have hpend : u.pend = (motion m' d mode).trace := by rw [hu, State.accept_pend, hcommand]
  have hpartial : u.microSteps n = (u.applyAll ((dutyWrites d ++ transmit m').take n)).withPend (u.pend.drop n) := by
    rw [u.microSteps_partial n, hpend, motion_trace_take hn]
    rw [hpend]
    exact Nat.lt_succ_of_le hn
  have hout := out_after_events hm' u hclk n
  rw [← State.accept_pend (s.withPort []), ← hu, ← u.microSteps_out] at hout
  obtain ⟨henN, hshield⟩ := u.applyAll_enN_of_no_enN
    (es := (dutyWrites d ++ transmit m').take n) fun b h => enN_notMem_motion m' d b (List.mem_of_mem_take h)
  refine ⟨?_, ?_, fun hlt => ?_, fun heq => ?_, fun h4 => ?_⟩
  · rw [hpartial, State.withPend_shieldEn, hshield]
    rfl
  · rw [hpartial, State.withPend_line, henN]
    rfl
  · rw [hout, if_pos hlt]
    rfl
  · rw [hout, if_neg (by omega)]
  · obtain ⟨hduty, hdur⟩ := duties_after_four u d m' h4
    rw [hpartial, State.withPend_duty, State.withPend_dur, hduty, hdur, hduties]
    exact ⟨rfl, rfl⟩

/-! The power stage after a command (R152). -/

theorem exec_enN {s : State} (h : s.Ready) (i : Instr) : ∃ t, exec i s = .next t ∧ t.line.enN = !shieldAfter i := by
  obtain ⟨hfault, hbusy⟩ := h
  refine ⟨_, exec_of_ready i hfault hbusy, ?_⟩
  rw [State.accept_commandOf_drain, State.apply_enN]
  rfl

/-- The mask of a motion command selects the half-bridge of R73 on each channel. -/
theorem maskSent_eq_halfMask (c : Config) {i : Instr} (hi : isMotion i = true) :
    ∃ sel, maskSent c i = some (halfMask c.bitpos sel) ∧ ∀ ch, selectedHalf i ch = some (sel ch) := by
  cases i with
  | setfwd a b => exact ⟨fwdHalf, rfl, fun ch => by cases ch <;> rfl⟩
  | setbwd a b => exact ⟨bwdHalf, rfl, fun ch => by cases ch <;> rfl⟩
  | settl a => exact ⟨fun _ => .b, rfl, fun _ => rfl⟩
  | settr a => exact ⟨fun _ => .a, rfl, fun _ => rfl⟩
  | stop | shield f => simp [isMotion] at hi

/-- With the shield on and a mask of halves at OUT, each motor is driven by the half its mask selects. -/
theorem State.drive_of_halfMask {s : State} {sel : Channel → Half} (hon : s.line.enN = false)
    (hout : s.out = halfMask s.cfg.bitpos sel) (ch : Channel) : s.drive ch = Drive.ofHalf (s.dur.get ch) (sel ch) := by
  have hbit : ∀ h, s.halfBridge ch h = decide (h = sel ch) := fun h => by
    rw [halfBridge, hout, getLsbD_halfMask]
  cases hsel : sel ch with
  | a => exact drive_of_aDriven hon (by rw [hbit, hsel]; rfl) (by rw [hbit, hsel]; rfl)
  | b => exact drive_of_bDriven hon (by rw [hbit, hsel]; rfl) (by rw [hbit, hsel]; rfl)

theorem exec_drives_off {s : State} (h : s.Ready) {i : Instr} (hoff : shieldAfter i = false) :
    ∃ t, exec i s = .next t ∧ ∀ ch, t.drive ch = .off := by
  obtain ⟨t, hexec, henN⟩ := exec_enN h i
  exact ⟨t, hexec, fun ch => State.drive_of_disabled (by rw [henN, hoff]; rfl)⟩

/-- Settles O23: a motion command leaves EN_N at 0 and its mask at OUT (`State.drive_of_halfMask`); STOP and SHIELD 0 leave
EN_N at 1. -/
theorem driveFollowsTheCommand : Obligations.DriveFollowsTheCommand := by
  intro s hready
  refine ⟨fun i hi hclk => ?_, exec_drives_off hready rfl, exec_drives_off hready rfl⟩
  obtain ⟨m, d, mode, hm, hcommand, hduties⟩ := commandOf_eq_motion s.cfg hi
  obtain ⟨sel, hm', hsel⟩ := maskSent_eq_halfMask s.cfg hi
  obtain rfl : m = halfMask s.cfg.bitpos sel := Option.some_inj.mp (hm.symm.trans hm')
  refine ⟨_, exec_motion hcommand hready hclk, fun ch => ⟨sel ch, hsel ch, ?_⟩⟩
  rw [hduties]
  exact State.drive_of_halfMask rfl rfl ch

/-! The shadow register (R128). -/

theorem commandOf_load {c : Config} {i : Instr} {m : Byte} (h : maskSent c i = some m) : (commandOf c i).load = some m := by
  cases i with
  | stop => cases hs : c.stopTx <;> simp_all [maskSent, commandOf, stopCommand, stopLoad]
  | _ => exact h

/-- Settles O39: a command that transmits shifts all of the old SR out (`State.accept_transmitting_drain`); one that does not
never reads SR. -/
theorem shadowRegisterIsHidden : Obligations.ShadowRegisterIsHidden := by
  rintro s x i ⟨hfault, hbusy⟩ hclk
  refine ⟨_, _, exec_of_ready i hfault hbusy, exec_of_ready i hfault hbusy, ?_⟩
  cases hm : maskSent s.cfg i with
  | some m =>
    obtain ⟨d, -, htrace⟩ := commandOf_transmits hm
    have hload := commandOf_load hm
    rw [State.accept_transmitting_drain s htrace hload hclk,
      State.accept_transmitting_drain { s with sr := x } htrace hload hclk]
  | none =>
    have hserial : serialEvents s.cfg i = [] := by rw [serialEvents, hm]; rfl
    rw [State.accept_commandOf_drain, State.accept_commandOf_drain, hserial, applyAll_dutyEvents, applyAll_dutyEvents]
    rfl

end Sys2Proof.Machine

/-! Reset (R144, R160 to R163). -/

namespace Sys2Proof.Machine

theorem step_of_rst {s : State} {p : PortInput} {rest : List PortInput} (hport : s.port = p :: rest)
    (hrst : p.rst = true) : step s = .next (s.withPort rest).startReset := by
  rw [step_of_port_cons hport, State.react, if_pos hrst]

theorem State.startReset_of_valid {s : State} (h : s.cfg.cfgValid = true) :
    s.startReset =
      { s with fault := .noFault, busy := true, mode := .stopped, pend := resetTrace s.cfg, post := none } := by
  rw [startReset, if_pos h]

theorem State.startReset_of_invalid {s : State} (h : s.cfg.cfgValid = false) :
    s.startReset = (s.raise .fConfig).unconfigure := by
  simp [startReset, h]

/-- Settles O43: `rst` comes first in the step, and `startReset` writes these fields. -/
theorem resetBeatsEverything : Obligations.ResetBeatsEverything := by
  intro s p rest hport hrst hvalid
  have hvalidU : (s.withPort rest).cfg.cfgValid = true := hvalid
  rw [step_of_rst hport hrst, State.startReset_of_valid hvalidU]
  rfl

/-- Settles O45: F_CONFIG is raised, and what is drawn afresh then is none of the listed fields. -/
theorem invalidHandleHaltsAtReset : Obligations.InvalidHandleHaltsAtReset := by
  intro s p rest hport hrst hinvalid
  have hinvalidU : (s.withPort rest).cfg.cfgValid = false := hinvalid
  refine ⟨_, step_of_rst hport hrst, ?_⟩
  rw [State.startReset_of_invalid hinvalidU]
  exact ⟨rfl, rfl, rfl, rfl, rfl, rfl, rfl, rfl⟩

/-- What the reset sequence writes; a CLK left high falls, and a LATCH left low may rise (R115, R125, R160). -/
theorem applyAll_resetTrace (s : State) (c : Config) :
    s.applyAll (resetTrace c) = { s with
      duty := PerChannel.minimumDuty c
      dur := PerChannel.minimumDuty c
      run := ⟨true, true, true, true⟩
      shieldEn := false
      line := ⟨c.resetLines.data, false, c.resetLines.latch, true⟩
      work := if s.line.clk then s.work <<< 1 else s.work
      bitcnt := if s.line.clk then s.bitcnt + 1#4 else s.bitcnt
      out := if !s.line.latch && c.resetLines.latch then s.sr else s.out
      trace := s.trace ++ resetTrace c } := by
  simp [resetTrace, State.apply, State.effect, State.drivePin, c.resetLines.clkLow, PerChannel.set,
    PerChannel.minimumDuty]

/-- The state after the whole reset sequence (R161). -/
theorem State.startReset_drain {s : State} (h : s.cfg.cfgValid = true) :
    s.startReset.drain = { s with
      duty := PerChannel.minimumDuty s.cfg
      dur := PerChannel.minimumDuty s.cfg
      run := ⟨true, true, true, true⟩
      shieldEn := false
      line := ⟨s.cfg.resetLines.data, false, s.cfg.resetLines.latch, true⟩
      mode := .stopped
      fault := .noFault
      busy := false
      pend := []
      post := none
      work := if s.line.clk then s.work <<< 1 else s.work
      bitcnt := if s.line.clk then s.bitcnt + 1#4 else s.bitcnt
      out := if !s.line.latch && s.cfg.resetLines.latch then s.sr else s.out
      trace := s.trace ++ resetTrace s.cfg } := by
  rw [startReset_of_valid h, drain_eq _ (List.cons_ne_nil _ _), applyAll_resetTrace]
  rfl

/-- Settles O44: the twelve steps after `rst` drain the reset sequence, to the state of `State.startReset_drain`. -/
theorem resetSequenceReachesTheResetState : Obligations.ResetSequenceReachesTheResetState := by
  intro s p hport hrst hvalid
  have hvalidU : (s.withPort []).cfg.cfgValid = true := hvalid
  have hstart := State.startReset_of_valid hvalidU
  have hrun : runSteps 13 s = .next (s.withPort []).startReset.drain := by
    rw [runSteps_succ (step_of_rst hport hrst), runSteps_of_port_nil 12 (by rw [hstart]; rfl) (by rw [hstart]),
      State.microSteps_past _ 12 (by rw [hstart]; rfl)]
  rw [State.startReset_drain hvalidU] at hrun
  refine ⟨_, hrun, rfl, rfl, minimumDuty_of_sourceConstants, rfl, rfl, rfl, rfl, rfl, rfl, rfl, rfl, rfl, fun hkept => ?kept,
    fun hhigh hlow => ?edge, rfl⟩
  case kept =>
    obtain h | h := hkept <;> simp [h]
  case edge => simp [hhigh, hlow]

theorem source_atReset : Config.atReset.SourceConstants := ⟨rfl, rfl, by decide⟩

/-- Settles O46: the minimum duty is 1000 at the defaults, and the other fields stand in `State.resetWith`. -/
theorem resetStateIsAsListed : Obligations.ResetStateIsAsListed := by
  have hduty : PerChannel.minimumDuty Config.atReset = ⟨1000, 1000, 1000, 1000⟩ :=
    minimumDuty_of_sourceConstants source_atReset
  exact ⟨hduty, hduty, rfl, rfl, rfl, rfl, rfl, rfl, rfl, rfl, rfl⟩

end Sys2Proof.Machine

/-! The machine's invariant (R36), by the parts of a step. -/

namespace Sys2Proof.Machine

theorem legalDuty_dutyOf (c : Config) (x : Int) : legalDuty c (dutyOf c x) := by
  refine ⟨dutyOf_lt c x, fun hfit => ?_⟩
  obtain ⟨hlow, hhigh⟩ := clampAndMap_bounds hfit.1 x
  rw [dutyOf_cast hfit]
  omega

theorem legalDuty_pairDuty (c : Config) (x y : Int) (ch : Channel) : legalDuty c (pairDuty c x y ch) := by
  unfold pairDuty
  split
  · exact legalDuty_dutyOf c x
  · exact legalDuty_dutyOf c y

theorem legalDuty_of_mem_dutyWrites {c : Config} {d : Channel → Duty} (hd : ∀ ch, legalDuty c (d ch)) {ch : Channel} {v : Duty}
    (h : Event.pwmSet ch v ∈ dutyWrites d) : legalDuty c v := by
  obtain ⟨ch', -, heq⟩ := List.mem_map.mp h
  cases heq
  exact hd ch

theorem legalDuty_of_mem_commandOf {c : Config} {i : Instr} {ch : Channel} {v : Duty}
    (h : Event.pwmSet ch v ∈ (commandOf c i).trace) : legalDuty c v := by
  have hduty : Event.pwmSet ch v ∈ dutyEvents c i := by
    rw [commandOf_trace] at h
    simpa [pwmSet_notMem_serialEvents] using h
  cases i with
  | setfwd a b | setbwd a b => exact legalDuty_of_mem_dutyWrites (legalDuty_pairDuty c a b) hduty
  | settl a | settr a => exact legalDuty_of_mem_dutyWrites (fun _ => legalDuty_dutyOf c a) hduty
  | stop => exact legalDuty_of_mem_dutyWrites (fun _ => legalDuty_dutyOf c 0) hduty
  | shield f => simp [dutyEvents] at hduty

theorem commandOf_trace_legal (c : Config) (i : Instr) : ∀ e ∈ (commandOf c i).trace, e.legal c := by
  intro e he
  cases e with
  | pwmSet ch v => exact legalDuty_of_mem_commandOf he
  | _ => trivial

theorem resetTrace_legal (c : Config) : ∀ e ∈ resetTrace c, e.legal c := by
  intro e he
  cases e with
  | pwmSet ch v =>
    have hv : v = dutyOf c 0 := by
      simp only [resetTrace, List.mem_cons, Event.pwmSet.injEq, reduceCtorEq, List.not_mem_nil, false_or, or_false] at he
      obtain ⟨-, hv⟩ | ⟨-, hv⟩ | ⟨-, hv⟩ | ⟨-, hv⟩ := he
      all_goals exact hv
    rw [hv]
    exact legalDuty_dutyOf c 0
  | _ => trivial

theorem length_commandOf_trace_le (c : Config) (i : Instr) : (commandOf c i).trace.length ≤ 39 := by
  cases hm : maskSent c i with
  | some m => exact (transmitting_counts hm).1.le
  | none =>
    have hserial : serialEvents c i = [] := by rw [serialEvents, hm]; rfl
    rw [commandOf_trace, hserial]
    cases i <;> simp [dutyEvents, length_dutyWrites]

/-- The part of the invariant that speaks of registers and lines (R36, R42). -/
structure State.RegistersOk (s : State) : Prop where
  dutyLegal : ∀ ch, legalDuty s.cfg (s.duty.get ch)
  enable : s.line.enN = !s.shieldEn
  mirrored : s.dur = s.duty

theorem State.Consistent.registersOk {s : State} (h : s.Consistent) : s.RegistersOk :=
  ⟨h.dutyLegal, h.enable, h.mirrored⟩

/-- An event keeps the duties legal where its own is, and writes EN_N with SHIELD_EN, and DUTY with DUR. -/
theorem State.RegistersOk.apply {s : State} (h : s.RegistersOk) {e : Event} (he : e.legal s.cfg) :
    (s.apply e).RegistersOk := by
  obtain ⟨hduty, henable, hmirrored⟩ := h
  cases e with
  | pwmSet ch v =>
    refine ⟨fun ch' => ?_, henable, ?_⟩
    · show legalDuty s.cfg ((s.duty.set ch v).get ch')
      rw [PerChannel.get_set]
      split
      · exact he
      · exact hduty ch'
    · show s.dur.set ch v = s.duty.set ch v
      rw [hmirrored]
  | pwmStart ch | settle => exact ⟨hduty, henable, hmirrored⟩
  | pin p b =>
    cases p with
    | enN => exact ⟨hduty, (Bool.not_not b).symm, hmirrored⟩
    | _ => exact ⟨hduty, henable, hmirrored⟩

/-- With nothing in flight, registers in order make the whole invariant. -/
theorem State.RegistersOk.consistent_of_idle {s : State} (h : s.RegistersOk) (hbusy : s.busy = false) (hpend : s.pend = [])
    (hpost : s.post = none) : s.Consistent where
  dutyLegal := h.dutyLegal
  pendLegal := by simp [hpend]
  enable := h.enable
  mirrored := h.mirrored
  busyIff := by simp [hbusy, hpend]
  pendShort := by simp [hpend]
  postNone := fun _ => hpost
  haltedIdle := fun _ => hbusy

/-- With a legal, short list of events in flight on a block without a fault, so too. -/
theorem State.RegistersOk.consistent_of_busy {s : State} (h : s.RegistersOk) (hbusy : s.busy = true) (hpend : s.pend ≠ [])
    (hlegal : ∀ e ∈ s.pend, e.legal s.cfg) (hshort : s.pend.length ≤ 39) (hfault : s.fault = .noFault) : s.Consistent where
  dutyLegal := h.dutyLegal
  pendLegal := hlegal
  enable := h.enable
  mirrored := h.mirrored
  busyIff := by simp [hbusy, hpend]
  pendShort := hshort
  postNone := fun hidle => by simp [hbusy] at hidle
  haltedIdle := fun hhalted => absurd hfault hhalted

theorem State.Consistent.withPort {s : State} (h : s.Consistent) (ps : List PortInput) : (s.withPort ps).Consistent :=
  ⟨h.dutyLegal, h.pendLegal, h.enable, h.mirrored, h.busyIff, h.pendShort, h.postNone, h.haltedIdle⟩

theorem State.Consistent.raise {s : State} (h : s.Consistent) (f : FaultCode) : (s.raise f).Consistent :=
  have hregs : (s.raise f).RegistersOk := ⟨h.dutyLegal, h.enable, h.mirrored⟩
  hregs.consistent_of_idle rfl rfl rfl

theorem State.Consistent.accept {s : State} (h : s.Consistent) (hfault : s.fault = .noFault) (i : Instr) :
    (s.accept (commandOf s.cfg i)).Consistent :=
  have hregs : (s.accept (commandOf s.cfg i)).RegistersOk := ⟨h.dutyLegal, h.enable, h.mirrored⟩
  hregs.consistent_of_busy rfl (commandOf_trace_ne_nil s.cfg i) (commandOf_trace_legal s.cfg i)
    (length_commandOf_trace_le s.cfg i) hfault

theorem State.Consistent.startReset {s : State} (h : s.Consistent) (hvalid : s.cfg.cfgValid = true) :
    s.startReset.Consistent := by
  rw [startReset_of_valid hvalid]
  refine RegistersOk.consistent_of_busy ⟨h.dutyLegal, h.enable, h.mirrored⟩ rfl (List.cons_ne_nil _ _)
    (resetTrace_legal s.cfg) ?_ rfl
  show (resetTrace s.cfg).length ≤ 39
  exact Nat.le_of_ble_eq_true rfl

/-- A pending block is busy, and so without a fault. -/
theorem State.Consistent.busy_of_pend {s : State} (h : s.Consistent) (hpend : s.pend ≠ []) :
    s.busy = true ∧ s.fault = .noFault := by
  have hbusy : s.busy = true := by rw [h.busyIff]; simpa using hpend
  refine ⟨hbusy, ?_⟩
  by_contra hhalted
  simp [h.haltedIdle hhalted] at hbusy

theorem State.Consistent.microStep {s : State} (h : s.Consistent) : s.microStep.Consistent := by
  obtain ⟨-, hs⟩ | ⟨e, hpend, hs⟩ | ⟨e, rest, hpend, hrest, hs⟩ := s.microStep_cases
  · rw [hs]
    exact h
  · have he : e.legal s.cfg := h.pendLegal e (by simp [hpend])
    obtain ⟨hduty, henable, hmirrored⟩ := h.registersOk.apply he
    rw [hs]
    exact RegistersOk.consistent_of_idle ⟨hduty, henable, hmirrored⟩ rfl rfl rfl
  · have he : e.legal s.cfg := h.pendLegal e (by simp [hpend])
    have hlegal : ∀ e' ∈ rest, e'.legal (s.apply e).cfg := fun e' he' => by
      rw [s.apply_cfg]
      exact h.pendLegal e' (by simp [hpend, he'])
    obtain ⟨hbusy, hfault⟩ := h.busy_of_pend (by simp [hpend])
    have hshort := h.pendShort
    rw [hpend, List.length_cons] at hshort
    obtain ⟨hduty, henable, hmirrored⟩ := h.registersOk.apply he
    rw [hs]
    refine RegistersOk.consistent_of_busy ⟨hduty, henable, hmirrored⟩ ?_ hrest hlegal ?_ ?_
    · simpa using hbusy
    · simp only [withPend_pend]
      omega
    · simpa using hfault

theorem State.Consistent.microSteps {s : State} (h : s.Consistent) (n : Nat) : (s.microSteps n).Consistent := by
  induction n with
  | zero => exact h
  | succ n ih => rw [microSteps_succ']; exact ih.microStep

theorem State.Consistent.advance {s : State} (h : s.Consistent) : s.advance.Consistent := by
  obtain ⟨-, hs⟩ | ⟨-, hs⟩ := s.advance_cases
  · rw [hs]; exact h
  · rw [hs]; exact h.microStep

theorem State.microSteps_fault (s : State) (n : Nat) : (s.microSteps n).fault = s.fault := by
  induction n with
  | zero => rfl
  | succ n ih => rw [microSteps_succ', microStep_fault, ih]

theorem State.drain_fault (s : State) : s.drain.fault = s.fault := s.microSteps_fault _

theorem State.advance_fault (s : State) : s.advance.fault = s.fault := by
  obtain ⟨-, hs⟩ | ⟨-, hs⟩ := s.advance_cases
  · rw [hs]
  · rw [hs, microStep_fault]

theorem State.HaltedClean.withPort {s : State} (h : s.HaltedClean) (ps : List PortInput) : (s.withPort ps).HaltedClean :=
  ⟨h.notBusy, h.pendEmpty, h.postNone, h.dutyWidth, h.durWidth⟩

/-- F_CONFIG leaves numbers of the registers' width (R144). -/
theorem State.haltedClean_unconfigure (s : State) (f : FaultCode) : (s.raise f).unconfigure.HaltedClean where
  notBusy := rfl
  pendEmpty := rfl
  postNone := rfl
  dutyWidth ch := by
    rw [unconfigure_duty, PerChannel.get_ofFn]
    exact Nat.mod_lt _ (Nat.two_pow_pos _)
  durWidth ch := by
    rw [unconfigure_dur, PerChannel.get_ofFn]
    exact Nat.mod_lt _ (Nat.two_pow_pos _)

/-- What each of the parts of a step keeps, a step keeps: taking CALLER's move, and then each of the block's reactions. -/
theorem step_keeps {P : State → Prop}
    (taken : ∀ {s} ps, P s → P (s.withPort ps))
    (restarted : ∀ {s}, P s → P s.startReset)
    (advanced : ∀ {s}, P s → P s.advance)
    (raised : ∀ {s f}, f ≠ .noFault → f ≠ .fConfig → s.fault = .noFault → P s → P (s.raise f))
    (accepted : ∀ {s} i, s.Ready → P s → P (s.accept (commandOf s.cfg i)))
    (performed : ∀ {s} i, s.Ready → P s → P (s.accept (commandOf s.cfg i)).drain)
    {s t : State} (h : P s) (hst : step s = .next t) : P t := by
  obtain ⟨u, hport, hstep⟩ := step_cases s
  have hU : P u := by
    obtain ⟨-, rfl⟩ | ⟨p, -, hu⟩ := hport
    · exact h
    · rw [hu]
      exact taken _ h
  rw [hst] at hstep
  obtain ⟨⟨⟩⟩ | ⟨⟨⟩⟩ | ⟨-, ⟨⟩⟩ | ⟨hnone, -, ⟨⟩⟩ | ⟨hnone, -, ⟨⟩⟩ | ⟨i, hnone, hidle, ⟨⟨⟩⟩ | ⟨⟨⟩⟩⟩ := hstep
  · exact restarted hU
  · exact advanced hU
  · exact hU
  · exact raised (by decide) (by decide) hnone hU
  · exact raised (by decide) (by decide) hnone hU
  · exact performed i ⟨hnone, hidle⟩ hU
  · exact accepted i ⟨hnone, hidle⟩ hU

theorem State.Inv.withPort {s : State} (h : s.Inv) (ps : List PortInput) : (s.withPort ps).Inv := by
  obtain ⟨hvalid, hfault, hcons⟩ | ⟨hinvalid, hfault, hclean⟩ := h
  · exact .inl ⟨hvalid, hfault, hcons.withPort ps⟩
  · exact .inr ⟨hinvalid, hfault, hclean.withPort ps⟩

theorem State.Inv.of_noFault {s : State} (h : s.Inv) (hfault : s.fault = .noFault) :
    s.cfg.cfgValid = true ∧ s.Consistent := by
  obtain ⟨hvalid, -, hcons⟩ | ⟨-, hhalted, -⟩ := h
  · exact ⟨hvalid, hcons⟩
  · rw [hfault] at hhalted
    cases hhalted

theorem State.Inv.startReset {s : State} (h : s.Inv) : s.startReset.Inv := by
  obtain ⟨hvalid, -, hcons⟩ | ⟨hinvalid, -, -⟩ := h
  · refine .inl ⟨by rw [s.startReset_cfg, hvalid], ?_, hcons.startReset hvalid⟩
    simp [startReset_of_valid hvalid]
  · rw [startReset_of_invalid hinvalid]
    exact .inr ⟨hinvalid, rfl, s.haltedClean_unconfigure .fConfig⟩

/-- A block with invalid handles stays halted in F_CONFIG as long as there is no `rst`. -/
theorem State.Inv.advance {s : State} (h : s.Inv) : s.advance.Inv := by
  obtain ⟨hvalid, hfault, hcons⟩ | ⟨hinvalid, hfault, hclean⟩ := h
  · exact .inl ⟨by rw [s.advance_cfg, hvalid], by rw [s.advance_fault]; exact hfault, hcons.advance⟩
  · rw [advance_of_halted (by simp [hfault])]
    exact .inr ⟨hinvalid, hfault, hclean⟩

theorem State.Inv.raise {s : State} {f : FaultCode} (hf : f ≠ .fConfig) (hnone : s.fault = .noFault) (h : s.Inv) :
    (s.raise f).Inv := by
  obtain ⟨hvalid, hcons⟩ := h.of_noFault hnone
  exact .inl ⟨hvalid, hf, hcons.raise f⟩

theorem State.Inv.accept {s : State} (h : s.Inv) (hready : s.Ready) (i : Instr) : (s.accept (commandOf s.cfg i)).Inv := by
  obtain ⟨hfault, -⟩ := hready
  obtain ⟨hvalid, hcons⟩ := h.of_noFault hfault
  exact .inl ⟨hvalid, by simp [hfault], hcons.accept hfault i⟩

theorem State.Inv.drain {s : State} (h : s.Inv) : s.drain.Inv := by
  obtain ⟨hvalid, hfault, hcons⟩ | ⟨hinvalid, hfault, hclean⟩ := h
  · exact .inl ⟨by rw [s.drain_cfg, hvalid], by rw [s.drain_fault]; exact hfault, hcons.microSteps _⟩
  · rw [drain_of_pend_nil hclean.pendEmpty]
    exact .inr ⟨hinvalid, hfault, hclean⟩

/-- Settles O47: each part of a step keeps the invariant. -/
theorem everyStepKeepsTheInvariant : Obligations.EveryStepKeepsTheInvariant := fun _ _ hinv hst =>
  step_keeps (P := State.Inv)
    (taken := fun ps h => h.withPort ps)
    (restarted := State.Inv.startReset)
    (advanced := State.Inv.advance)
    (raised := fun _ => State.Inv.raise)
    (accepted := fun i hready h => h.accept hready i)
    (performed := fun i hready h => (h.accept hready i).drain)
    hinv hst

theorem State.consistent_resetWith (c : Config) (sr out : Byte) : (State.resetWith c sr out).Consistent :=
  have hregs : (State.resetWith c sr out).RegistersOk :=
    ⟨fun ch => by
      show legalDuty c ((PerChannel.minimumDuty c).get ch)
      rw [PerChannel.minimumDuty_get]
      exact legalDuty_dutyOf c 0, rfl, rfl⟩
  hregs.consistent_of_idle rfl rfl rfl

/-- With nothing pending the serial lines are in order if CLK is low or the block is halted. -/
theorem State.serialSafe_of_pend_nil {s : State} (hpend : s.pend = []) (hclk : s.fault = .noFault → s.line.clk = false) :
    s.SerialSafe where
  outKept n := .inl (by rw [microSteps_of_pend_nil hpend, microSteps_of_pend_nil hpend])
  clockLow := by rw [drain_of_pend_nil hpend]; exact hclk

/-- Settles O48: after reset nothing is pending, the duties are the minimum, and CLK is low by R168. -/
theorem resetMeetsTheInvariants : Obligations.ResetMeetsTheInvariants :=
  ⟨.inl ⟨rfl, by simp [State.reset, State.resetWith], State.consistent_resetWith ..⟩,
    State.serialSafe_of_pend_nil rfl fun _ => Config.atReset.resetLines.clkLow⟩

end Sys2Proof.Machine

/-! PWM channels once started (R33), and the end of what is pending (R173). -/

namespace Sys2Proof.Machine

theorem State.apply_keeps_running {s : State} {ch : Channel} (h : s.run.get ch = true) (e : Event) :
    (s.apply e).run.get ch = true := by
  cases e with
  | pwmStart ch' =>
    show (s.run.set ch' true).get ch = true
    rw [PerChannel.get_set, h, ite_self]
  | pin p b => cases p <;> exact h
  | _ => exact h

theorem State.microStep_keeps_running {s : State} {ch : Channel} (h : s.run.get ch = true) :
    s.microStep.run.get ch = true := by
  obtain ⟨-, hs⟩ | ⟨e, -, hs⟩ | ⟨e, rest, -, -, hs⟩ := s.microStep_cases
  · rwa [hs]
  · rw [hs]; exact apply_keeps_running h e
  · rw [hs]; exact apply_keeps_running h e

theorem State.advance_keeps_running {s : State} {ch : Channel} (h : s.run.get ch = true) : s.advance.run.get ch = true := by
  obtain ⟨-, hs⟩ | ⟨-, hs⟩ := s.advance_cases
  · rwa [hs]
  · rw [hs]
    exact microStep_keeps_running h

theorem State.drain_keeps_running {s : State} {ch : Channel} (h : s.run.get ch = true) : s.drain.run.get ch = true := by
  have hsteps : ∀ n, (s.microSteps n).run.get ch = true := fun n => by
    induction n with
    | zero => exact h
    | succ n ih => rw [microSteps_succ']; exact microStep_keeps_running ih
  exact hsteps _

/-- Settles O51: each part of a step keeps RUN, since only events write it, and they write only `true`. -/
theorem startedChannelsStayStarted : Obligations.StartedChannelsStayStarted := by
  intro s t ch hvalid hrun hst
  have hkept : t.cfg.cfgValid = true ∧ t.run.get ch = true :=
    step_keeps (P := fun u => u.cfg.cfgValid = true ∧ u.run.get ch = true)
      (taken := fun _ h => h)
      (restarted := fun ⟨hv, h⟩ => by rw [State.startReset_of_valid hv]; exact ⟨hv, h⟩)
      (advanced := fun ⟨hv, h⟩ => ⟨by rw [State.advance_cfg]; exact hv, State.advance_keeps_running h⟩)
      (raised := fun _ _ _ h => h)
      (accepted := fun _ _ h => h)
      (performed := fun _ _ ⟨hv, h⟩ => ⟨by rw [State.drain_cfg]; exact hv, State.drain_keeps_running h⟩)
      ⟨hvalid, hrun⟩ hst
  exact hkept.2

/-- Settles O52: as many steps as events are pending drain the block, and the invariant bounds them by 39. -/
theorem busyBlockIsReadyWithin39Steps : Obligations.BusyBlockIsReadyWithin39Steps := by
  intro s hinv hfault hport
  obtain ⟨-, hcons⟩ := hinv.of_noFault hfault
  have hidle : s.drain.busy = false := by
    have hdrained : s.drain.Consistent := hcons.microSteps _
    rw [hdrained.busyIff, s.drain_pend]
    rfl
  exact ⟨s.pend.length, s.drain, hcons.pendShort, runSteps_of_port_nil _ hport hfault,
    ⟨by rw [s.drain_fault, hfault], hidle⟩, s.drain_pend⟩

/-! The serial lines (R122, R169), by the parts of a step. -/

theorem mem_sentMasks {c : Config} {i : Instr} {m : Byte} (h : maskSent c i = some m) : m ∈ sentMasks c := by
  cases i with
  | stop => cases hs : c.stopTx <;> simp_all [maskSent, sentMasks]
  | shield f => simp [maskSent] at h
  | _ =>
    cases h
    simp [sentMasks]

/-- A micro-step leaves a run of micro-steps that comes to the same end. -/
theorem State.drain_microStep (s : State) : s.microStep.drain = s.drain := by
  have hlength : s.microStep.pend.length ≤ s.pend.length := by
    obtain ⟨-, hs⟩ | ⟨e, hpend, hs⟩ | ⟨e, rest, hpend, -, hs⟩ := s.microStep_cases
    · rw [hs]
    · simp [hs]
    · simp [hs, hpend]
  rw [← s.microStep.microSteps_past _ hlength, ← s.microSteps_past (s.pend.length + 1) (Nat.le_succ _), microSteps]

theorem State.SerialSafe.microStep {s : State} (h : s.SerialSafe) : s.microStep.SerialSafe where
  outKept n := by
    rw [s.microStep_cfg]
    exact h.outKept (n + 1)
  clockLow hfault := by
    rw [s.drain_microStep]
    exact h.clockLow (by rwa [← s.microStep_fault])

theorem State.SerialSafe.raise {s : State} {f : FaultCode} (hf : f ≠ .noFault) : (s.raise f).SerialSafe :=
  serialSafe_of_pend_nil rfl fun hnone => absurd hnone hf

/-- The serial lines are in order while a list of events is pending that leave OUT, one by one, or make it a mask, and
which ends with CLK low. -/
theorem State.serialSafe_of_pend {s : State} (hpend : s.pend ≠ [])
    (hout : ∀ n, (s.applyAll (s.pend.take (n + 1))).out = (s.applyAll (s.pend.take n)).out ∨
      (s.applyAll (s.pend.take (n + 1))).out ∈ sentMasks s.cfg)
    (hclk : (s.applyAll s.pend).line.clk = false) : s.SerialSafe where
  outKept n := by
    rw [microSteps_out, microSteps_out]
    exact hout n
  clockLow _ := by
    rw [drain_eq s hpend]
    exact hclk

theorem latchRise_notMem_resetTrace {c : Config} (h : c.resetLines.latch = false) : Event.pin .latch true ∉ resetTrace c := by
  simp [resetTrace, h]

/-- The reset sequence gives no latch edge where RESET_LINES.LATCH is 0, and leaves CLK low (R168, R169). -/
theorem State.serialSafe_startReset {s : State} (hlatch : s.cfg.resetLines.latch = false) :
    s.startReset.SerialSafe ∧ s.startReset.out = s.out := by
  obtain ⟨-, hs⟩ | ⟨-, hs⟩ := s.startReset_cases
  · have hpend : s.startReset.pend = resetTrace s.cfg := by rw [hs]
    have hkept : ∀ n, (s.startReset.applyAll (s.startReset.pend.take n)).out = s.startReset.out := fun n =>
      applyAll_out_of_no_latchRise _ fun hmem =>
        latchRise_notMem_resetTrace hlatch (hpend ▸ List.mem_of_mem_take hmem)
    refine ⟨serialSafe_of_pend (by rw [hpend]; exact List.cons_ne_nil _ _) (fun n => .inl ?_) ?_, by rw [hs]⟩
    · rw [hkept, hkept]
    · rw [hpend, applyAll_resetTrace]
  · rw [hs]
    exact ⟨serialSafe_of_pend_nil rfl fun hnone => by simp at hnone, rfl⟩

/-- The events of a command begun with CLK low end with CLK low (R122). -/
theorem clk_after_command {s : State} (c : Config) (i : Instr) (hclk : s.line.clk = false) :
    (s.applyAll (commandOf c i).trace).line.clk = false := by
  cases hm : maskSent c i with
  | some m =>
    obtain ⟨d, -, htrace⟩ := commandOf_transmits hm
    rw [htrace, State.applyAll_transmitting s m d _ hclk]
  | none =>
    have hserial : serialEvents c i = [] := by rw [serialEvents, hm]; rfl
    rw [commandOf_trace, hserial, List.append_nil, State.applyAll_append, applyAll_dutyEvents]
    exact hclk

/-- An accepted command, begun with CLK low, changes OUT only to the mask it sends, and ends with CLK low (R122, R169). -/
theorem State.serialSafe_accept {s : State} (hclk : s.line.clk = false) (i : Instr) :
    (s.accept (commandOf s.cfg i)).SerialSafe := by
  refine serialSafe_of_pend (commandOf_trace_ne_nil s.cfg i) (fun n => ?_) (clk_after_command s.cfg i hclk)
  set u := s.accept (commandOf s.cfg i) with hu
  have hlow : u.line.clk = false := hclk
  have hpend : u.pend = (commandOf s.cfg i).trace := rfl
  have hcfg : u.cfg = s.cfg := rfl
  rw [hpend, hcfg]
  cases hm : maskSent s.cfg i with
  | none => exact .inl (by rw [out_after_events_of_none hm, out_after_events_of_none hm])
  | some m =>
    rw [out_after_events hm u hlow, out_after_events hm u hlow]
    by_cases hedge : n + 1 < 38
    · rw [if_pos hedge, if_pos (by omega)]
      exact .inl rfl
    · rw [if_neg hedge]
      exact .inr (mem_sentMasks hm)

/-- A whole command, begun with CLK low, leaves OUT as it was or the mask it sends (R88). -/
theorem out_after_exec {s t : State} {i : Instr} (hready : s.Ready) (hclk : s.line.clk = false) (hexec : exec i s = .next t) :
    t.out = s.out ∨ t.out ∈ sentMasks s.cfg := by
  obtain ⟨t', hexec', -, -, -, hnone, hsome⟩ := commandsFollowTheModeTable s i hready
  obtain rfl : t' = t := by simpa [hexec'] using hexec
  cases hm : maskSent s.cfg i with
  | none => exact .inl (hnone hm)
  | some m => exact .inr (by rw [hsome m hm hclk]; exact mem_sentMasks hm)

/-- A ready block in order has CLK low, R122's precondition. -/
theorem State.SerialSafe.clk_low_of_ready {s : State} (h : s.SerialSafe) (hinv : s.Inv) (hready : s.Ready) :
    s.line.clk = false := by
  obtain ⟨hfault, hbusy⟩ := hready
  obtain ⟨-, hcons⟩ := hinv.of_noFault hfault
  have hpend : s.pend = [] := by
    have hiff := hcons.busyIff
    rw [hbusy] at hiff
    simpa using hiff
  have hlow := h.clockLow hfault
  rwa [drain_of_pend_nil hpend] at hlow

/-! The port is none of what a micro-step reads. -/

theorem State.apply_withPort (s : State) (ps : List PortInput) (e : Event) :
    (s.withPort ps).apply e = (s.apply e).withPort ps := by
  cases e with
  | pin p b => cases p <;> rfl
  | _ => rfl

theorem State.microStep_withPort (s : State) (ps : List PortInput) :
    (s.withPort ps).microStep = s.microStep.withPort ps := by
  match h : s.pend with
  | [] => rw [microStep_of_pend_nil h, microStep_of_pend_nil (s := s.withPort ps) h]
  | [e] =>
    simp only [microStep, withPort_pend, h]
    exact congrArg finish ((s.withPend []).apply_withPort ps e)
  | e :: e' :: rest =>
    simp only [microStep, withPort_pend, h]
    exact (s.withPend (e' :: rest)).apply_withPort ps e

theorem State.microSteps_withPort (s : State) (ps : List PortInput) (n : Nat) :
    (s.withPort ps).microSteps n = (s.microSteps n).withPort ps := by
  induction n generalizing s with
  | zero => rfl
  | succ n ih => rw [microSteps, microStep_withPort, ih, microSteps]

theorem State.SerialSafe.withPort {s : State} (h : s.SerialSafe) (ps : List PortInput) : (s.withPort ps).SerialSafe where
  outKept n := by
    rw [microSteps_withPort, microSteps_withPort]
    exact h.outKept n
  clockLow := by
    rw [drain, microSteps_withPort]
    exact h.clockLow

/-- What one step from `s` may come to, and the parts of the step on the way: both invariants, the configuration of `s`, and
its OUT or a whole mask. -/
structure State.WholeFrom (s u : State) : Prop where
  inv : u.Inv
  safe : u.SerialSafe
  cfg : u.cfg = s.cfg
  out : u.out = s.out ∨ u.out ∈ sentMasks s.cfg

/-- The last clause goes from one part of a step to the next. -/
theorem State.WholeFrom.trans {s u v : State} (h : s.WholeFrom u) (hinv : v.Inv) (hsafe : v.SerialSafe) (hcfg : v.cfg = u.cfg)
    (hout : v.out = u.out ∨ v.out ∈ sentMasks u.cfg) : s.WholeFrom v where
  inv := hinv
  safe := hsafe
  cfg := hcfg.trans h.cfg
  out := by
    obtain hkept | hmask := hout
    · rw [hkept]
      exact h.out
    · rw [h.cfg] at hmask
      exact .inr hmask

theorem State.SerialSafe.advance {s : State} (h : s.SerialSafe) :
    s.advance.SerialSafe ∧ (s.advance.out = s.out ∨ s.advance.out ∈ sentMasks s.cfg) := by
  obtain ⟨-, hs⟩ | ⟨-, hs⟩ := s.advance_cases
  · rw [hs]
    exact ⟨h, .inl rfl⟩
  · rw [hs]
    exact ⟨h.microStep, h.outKept 0⟩

/-- Settles O49. A reset gives no latch edge, a micro-step is one of those the serial invariant speaks of, a fault leaves
nothing pending, and a command starts on a ready block, whose CLK is low. -/
theorem outOnlyEverHoldsWholeMasks : Obligations.OutOnlyEverHoldsWholeMasks := by
  intro s t hinv hsafe hlatch hst
  have hwhole : s.WholeFrom t := by
    refine step_keeps (P := s.WholeFrom) (taken := fun ps h => ?taken) (restarted := fun h => ?restarted)
      (advanced := fun h => ?advanced) (raised := fun hf hfc hnone h => ?raised) (accepted := fun i hready h => ?accepted)
      (performed := fun i hready h => ?performed) ⟨hinv, hsafe, rfl, .inl rfl⟩ hst
    case taken => exact h.trans (h.inv.withPort ps) (h.safe.withPort ps) rfl (.inl rfl)
    case restarted =>
      obtain ⟨hsafeR, hkept⟩ := State.serialSafe_startReset (by rw [h.cfg]; exact hlatch)
      exact h.trans h.inv.startReset hsafeR (State.startReset_cfg _) (.inl hkept)
    case advanced =>
      obtain ⟨hsafeA, hout⟩ := h.safe.advance
      exact h.trans h.inv.advance hsafeA (State.advance_cfg _) hout
    case raised => exact h.trans (h.inv.raise hfc hnone) (State.SerialSafe.raise hf) rfl (.inl rfl)
    case accepted =>
      have hclk := h.safe.clk_low_of_ready h.inv hready
      exact h.trans (h.inv.accept hready i) (State.serialSafe_accept hclk i) rfl (.inl rfl)
    case performed =>
      have hclk := h.safe.clk_low_of_ready h.inv hready
      have hlow := (State.serialSafe_accept hclk i).clockLow hready.1
      exact h.trans (h.inv.accept hready i).drain (State.serialSafe_of_pend_nil (State.drain_pend _) fun _ => hlow)
        (State.drain_cfg _) (out_after_exec hready hclk (exec_of_ready i hready.1 hready.2))
  exact ⟨hwhole.safe, hwhole.out⟩

end Sys2Proof.Machine
